-- ==== Sys2Proof/Word.lean ====
section
/-! DEFINITION. The word types of the framer and the operand that is not a word: an output region (spec/00_scope.md R7, R9). -/

namespace Sys2Proof

/-- R7: a byte, 0 to 255. -/
abbrev Byte := BitVec 8

/-- R28: a `W_REQ`-bit size, with `W_REQ = 32` (R6). -/
abbrev Size := BitVec 32

/-- R80: the four bytes of a chunk group, `t` the tag. -/
structure Group where
  t  : Byte
  b1 : Byte
  b2 : Byte
  b3 : Byte
deriving DecidableEq, Repr, Inhabited

/-- R35: the binding of the host's output region, an opaque handle together with its length `out_len`.
The handle is the host address of the region's byte 0, so that regions may be slices of one buffer (R59, R203; log 9). -/
structure OutRegion where
  base : Nat
  len  : Nat
deriving DecidableEq, Repr, Inhabited

end Sys2Proof
end

