-- ==== Sys2Proof/Config.lean ====
section
/-! DEFINITION. What an implementation fixes (spec/00_scope.md R6), the constants the source fixes, the shapes of the
transport's answers (spec/20_memory.md R60), and the free values. -/

namespace Sys2Proof

/-! ## Constants of R6 -/

/-- The tag of SIZE_ANNOUNCE (R6, R81). -/
def tagSize : Byte := 0x1B
/-- The tag of DATA1 (R6, R81). -/
def tagD1 : Byte := 0x1D
/-- The tag of DATA2 (R6, R81). -/
def tagD2 : Byte := 0x1E
/-- The tag of DATA3 (R6, R81). -/
def tagD3 : Byte := 0x1F
/-- The tag of END (R6, R81). -/
def tagEnd : Byte := 0x15
/-- The ack byte (R6, R88). -/
def ackValue : Byte := 0x44
/-- The frame tag before a 3-byte segment (R6, R87). -/
def frameTag3 : Byte := 0x43
/-- The frame tag before the final 2-byte segment (R6, R87). -/
def frameTag2 : Byte := 0x42

/-! ## The transport's answers -/

/-- R6, U7: which labels are codes of the transport: OPEN, so it has no body (log 4). -/
opaque Config.isTransportCode : Nat → Bool

/-- R6, D27: the type of the code a transport error carries. It is OPEN: how many codes there are and which is not known, but for
one, labelled 0, without which no error could carry a code (log 4). A code is only passed through. -/
abbrev TransportCode := { label : Nat // label = 0 ∨ Config.isTransportCode label = true }

/-- R60: the answer to `BulkRead` is exactly one of these. -/
inductive ReadAnswer where
  | ok (bytes : List Byte)
  | timeout
  | err (c : TransportCode)
deriving DecidableEq, Repr, Inhabited

/-- R60, C8: the answer to `IntWrite` is exactly one of these. -/
inductive WriteAnswer where
  | ok
  | err (c : TransportCode)
deriving DecidableEq, Repr, Inhabited

/-! ## Parameters of R6 -/

/-- R6, R147: what `consumed` becomes when a RECEIVE aborts from Scan or CompleteAck. -/
inductive AbortPolicy where
  | exhaust
  | afterGroup
  | unchanged
deriving DecidableEq, Repr, Inhabited

/-- R6: the parameters of one framer. A machine carries its own, no step changes them, and every claim ranges over them (log 3). -/
structure Config where
  cap          : Nat
  readTimeout  : Nat
  writeTimeout : Nat
  retryLimit   : Option Nat
  abortPolicy  : AbortPolicy
  epSend       : Nat
  epRecv       : Nat
deriving DecidableEq, Repr

/-- R6: `CAP` "must be a multiple of 4 and at least 4". -/
abbrev Config.Legal (c : Config) : Prop := c.cap % 4 = 0 ∧ 4 ≤ c.cap

/-! ## Free values (no body: nothing can be proved of them) -/

/-- R38, U14: the answer to a read that no listed answer settles, by draw number (log 1). -/
opaque Config.freeRead : Nat → ReadAnswer
/-- R38, U14: the answer to a write that no listed answer settles, by draw number (log 1). -/
opaque Config.freeWrite : Nat → WriteAnswer
/-- R6, U5: OPEN (log 3). -/
opaque Config.openAbortPolicy : AbortPolicy
/-- R6, U3: OPEN (log 3). -/
opaque Config.openWriteTimeout : Nat
/-- R6, U6: OPEN (log 4). -/
opaque Config.openEpSend : Nat
/-- R6, U6: OPEN (log 4). -/
opaque Config.openEpRecv : Nat

/-- The parameters of the machine right after reset: R6's defaults where it gives one (CAP 4096, READ_TIMEOUT 1000 ms,
TIMEOUT_RETRY_LIMIT `none`, "the documented behaviour"), an opaque value where R6 says OPEN and gives none (log 3). -/
def Config.standard : Config where
  cap          := 4096
  readTimeout  := 1000
  writeTimeout := Config.openWriteTimeout
  retryLimit   := none
  abortPolicy  := Config.openAbortPolicy
  epSend       := Config.openEpSend
  epRecv       := Config.openEpRecv

end Sys2Proof
end

