-- ==== Sys2Proof/Syntax.lean ====
section
/-! DEFINITION. The instructions: one constructor per row of spec/opcode_table.json. -/

namespace Sys2Proof

/-- The twelve rows of the opcode table. A group carries all its bytes, those no rule reads among them (R82 to R85), so
that its encoding can be given back whole. -/
inductive Instr where
  /-- SIZE_ANNOUNCE (R82): `b1` is ignored. -/
  | sizeAnnounce (b1 : Byte) (len : BitVec 16)
  /-- DATA1 (R83). -/
  | data1 (d0 : Byte) (pad : BitVec 16)
  /-- DATA2 (R83). -/
  | data2 (d0 d1 : Byte) (pad : Byte)
  /-- DATA3 (R83). -/
  | data3 (d0 d1 d2 : Byte)
  /-- END (R84). -/
  | endMark (pad : BitVec 24)
  /-- UNKNOWN (R85): `t` is none of the five tags above (WellFormed). -/
  | unknown (t : Byte) (rest : BitVec 24)
  /-- CMD_FRAME (R86): the frame as it goes over the wire. -/
  | cmdFrame (cmd arg : BitVec 32)
  /-- ACK (R88): the ack byte as it goes over the wire. -/
  | ack
  /-- INIT (R89, R131). -/
  | init
  /-- ENCODE (R89, R111). -/
  | encodeCmd (cmd arg : BitVec 32)
  /-- ACK_BYTE (R89, R117). -/
  | ackByte
  /-- RECEIVE (R89, R133). -/
  | receive (req : Size) (out : OutRegion)
deriving DecidableEq, Repr

end Sys2Proof
end

