-- ==== Sys2Proof/WellFormed.lean ====
section
/-! DEFINITION. Which instruction terms stand for an instruction of the spec. -/

namespace Sys2Proof

/-- R85: an UNKNOWN tag is any value but the five that the dispatcher names. -/
def isUnknownTag (t : Byte) : Bool :=
  !(t == tagEnd || t == tagSize || t == tagD1 || t == tagD2 || t == tagD3)

/-- R81, R85: a term is well formed when its tag is of its own class. Every other operand range is the operand's type:
`cmd` and `arg` have 32 bits (R110), `req` has `W_REQ` bits (R244: a wider one "cannot be written as an operand"). A region
shorter than `req` is no matter of form: RECEIVE refuses it after another check (R132). -/
def Instr.wf : Instr → Bool
  | .unknown t _ => isUnknownTag t
  | .sizeAnnounce _ _ => true
  | .data1 _ _ => true
  | .data2 _ _ _ => true
  | .data3 _ _ _ => true
  | .endMark _ => true
  | .cmdFrame _ _ => true
  | .ack => true
  | .init => true
  | .encodeCmd _ _ => true
  | .ackByte => true
  | .receive _ _ => true

end Sys2Proof
end

