-- ==== Sys2Proof/Decode.lean ====
section
/-! DEFINITION. The four encodings of spec/30_encoding.md: byte order (R8), the decoder of the groups that come in and of the
frames and acks that go out, and after them the encoder. -/

namespace Sys2Proof

/-! ## Byte order (R8, R58) -/

/-- R8: `be16(a, b)`, `a` the high byte. -/
def be16 (a b : Byte) : BitVec 16 := a ++ b

/-- R8: `be32(a, b, c, d)`, `a` the highest byte. -/
def be32 (a b c d : Byte) : BitVec 32 := a ++ b ++ c ++ d

/-- The 24 bits of the last three bytes of a group, the first of them highest (R80). -/
def be24 (a b c : Byte) : BitVec 24 := a ++ b ++ c

/-- Byte `k` of a value, counted from the least significant. -/
def byteOf {w : Nat} (v : BitVec w) (k : Nat) : Byte := v.extractLsb' (8 * k) 8

/-- R8: `be32_bytes(v) = [v[31:24], v[23:16], v[15:8], v[7:0]]`. -/
def be32Bytes (v : BitVec 32) : List Byte := [byteOf v 3, byteOf v 2, byteOf v 1, byteOf v 0]

/-! ## Decoding -/

/-- R90: groups only come in, frames and acks only go out, so the direction of a byte string says how it is read. -/
inductive Channel where
  /-- From the device: chunk groups. -/
  | fromDevice
  /-- To the device: command frames and acks. -/
  | toDevice
deriving DecidableEq, Repr

/-- Why a byte string is no instruction of a channel. -/
inductive DecodeError where
  /-- R80, R90: a group has exactly 4 bytes. -/
  | groupLength
  /-- R90: what goes out is an ack of 1 byte or a frame of 11. -/
  | outLength
  /-- R88: the one byte of an ack is 0x44. -/
  | notAck
  /-- R86, R87: bytes 0, 4 and 8 of a frame are 0x43, 0x43 and 0x42. -/
  | frameTags
deriving DecidableEq, Repr

/-- R81: the class of a group is decided by equality on all 8 bits of its tag, and every group has a class. -/
def decodeGroup (g : Group) : Instr :=
  if g.t = tagSize then .sizeAnnounce g.b1 (be16 g.b2 g.b3)
  else if g.t = tagD1 then .data1 g.b1 (be16 g.b2 g.b3)
  else if g.t = tagD2 then .data2 g.b1 g.b2 g.b3
  else if g.t = tagD3 then .data3 g.b1 g.b2 g.b3
  else if g.t = tagEnd then .endMark (be24 g.b1 g.b2 g.b3)
  else .unknown g.t (be24 g.b1 g.b2 g.b3)

/-- R86, R115: a frame read back, the test harness's decoder. -/
def decodeFrame (f0 f1 f2 f3 f4 f5 f6 f7 f8 f9 f10 : Byte) : Except DecodeError Instr :=
  if f0 = frameTag3 ∧ f4 = frameTag3 ∧ f8 = frameTag2 then
    .ok (.cmdFrame (be32 f1 f2 f3 f5) (be32 f6 f7 f9 f10))
  else .error .frameTags

/-- R88. -/
def decodeAck (b : Byte) : Except DecodeError Instr :=
  if b = ackValue then .ok .ack else .error .notAck

/-- The decoder, total on any bytes. -/
def decode : Channel → List Byte → Except DecodeError Instr
  | .fromDevice, [t, b1, b2, b3] => .ok (decodeGroup ⟨t, b1, b2, b3⟩)
  | .fromDevice, _ => .error .groupLength
  | .toDevice, [b] => decodeAck b
  | .toDevice, [f0, f1, f2, f3, f4, f5, f6, f7, f8, f9, f10] => decodeFrame f0 f1 f2 f3 f4 f5 f6 f7 f8 f9 f10
  | .toDevice, _ => .error .outLength

/-! ## Encoding -/

/-- Where an instruction goes over the wire; a host operation has no binary code (R89). -/
def Instr.channel : Instr → Option Channel
  | .sizeAnnounce _ _ => some .fromDevice
  | .data1 _ _ => some .fromDevice
  | .data2 _ _ _ => some .fromDevice
  | .data3 _ _ _ => some .fromDevice
  | .endMark _ => some .fromDevice
  | .unknown _ _ => some .fromDevice
  | .cmdFrame _ _ => some .toDevice
  | .ack => some .toDevice
  | .init => none
  | .encodeCmd _ _ => none
  | .ackByte => none
  | .receive _ _ => none

/-- The bytes of an instruction in transmission order (R82 to R88); a host operation has none (R89). -/
def encode : Instr → List Byte
  | .sizeAnnounce b1 len => [tagSize, b1, byteOf len 1, byteOf len 0]
  | .data1 d0 pad => [tagD1, d0, byteOf pad 1, byteOf pad 0]
  | .data2 d0 d1 pad => [tagD2, d0, d1, pad]
  | .data3 d0 d1 d2 => [tagD3, d0, d1, d2]
  | .endMark pad => [tagEnd, byteOf pad 2, byteOf pad 1, byteOf pad 0]
  | .unknown t rest => [t, byteOf rest 2, byteOf rest 1, byteOf rest 0]
  | .cmdFrame cmd arg =>
    [frameTag3, byteOf cmd 3, byteOf cmd 2, byteOf cmd 1, frameTag3, byteOf cmd 0, byteOf arg 3, byteOf arg 2,
      frameTag2, byteOf arg 1, byteOf arg 0]
  | .ack => [ackValue]
  | .init => []
  | .encodeCmd _ _ => []
  | .ackByte => []
  | .receive _ _ => []

/-! ## The opcode table's numbering -/

/-- The `n` bytes of a number, the most significant first: a group is the word `be32(t, b1, b2, b3)` (R80), and a frame is
an 88-bit pattern "with `f[0]` in the top byte" (R86; log 18). -/
def bytesOfWord (n w : Nat) : List Byte := (List.range n).map fun i => BitVec.ofNat 8 (w >>> (8 * (n - 1 - i)))

/-- The channel of the table's rows of a given length (R90). -/
def channelOfBits (nbits : Nat) : Option Channel :=
  if nbits = 32 then some .fromDevice
  else if nbits = 8 ∨ nbits = 88 then some .toDevice
  else none

/-- The instruction that the bits `w` of a row of `nbits` bits stand for; none where the decoder rejects them. -/
def decodeTableWord (nbits w : Nat) : Option Instr :=
  match channelOfBits nbits with
  | none => none
  | some ch =>
    match decode ch (bytesOfWord (nbits / 8) w) with
    | .ok i => some i
    | .error _ => none

end Sys2Proof
end

