-- ==== Sys2Proof/Machine/State.lean ====
section
/-! DEFINITION. The framer's state as plain data (spec/10_state.md), the reasons a step can stop, and the state after reset. -/

namespace Sys2Proof.Machine

/-! ## Memory -/

/-- Bytes by address, addresses strictly rising. An unlisted address holds no value the model knows: in `raw` it is a cell
"that no physical read has written" (R21), in host memory a byte that still holds "whatever the host left there" (R55). -/
abbrev Memory := List Host.Cell

/-- The canonical form. No entry can equal what an unlisted address reads as, because that is no value. -/
abbrev Memory.wf (m : Memory) : Prop := m.Pairwise fun a b => a.1 < b.1

/-! ## Registers -/

/-- R27. -/
inductive TState where
  | waitingForSize
  | receiving
  | waitingForEnd
deriving DecidableEq, Repr

/-- The transfer registers of R236 (3), "`tstate`, `req`, `written`, `p`, `tries`, `out`". They "hold no value outside a
RECEIVE" (R27 to R30, R33, R35), so they are part of `Control.busy` (log 6). -/
structure Transfer where
  /-- R27. -/
  tstate  : TState
  /-- R28. -/
  req     : Size
  /-- R29, exact by R9. -/
  written : Nat
  /-- R30. -/
  p       : Nat
  /-- R33. -/
  tries   : Nat
  /-- R35. -/
  out     : OutRegion
deriving DecidableEq, Repr

/-- R32: the controller phases inside a RECEIVE. -/
inductive OpPhase where
  | refill
  | timeoutAck
  | scan
  | completeAck
  | finalAck
deriving DecidableEq, Repr

/-- R32: the controller phase, Idle or one inside a RECEIVE, where the transfer registers hold their values. -/
inductive Control where
  | idle
  | busy (phase : OpPhase) (x : Transfer)
deriving DecidableEq, Repr

/-- R243: the kinds of the sticky fault register. -/
inductive FaultKind where
  /-- R132: RECEIVE before any INIT. -/
  | sessionUninitialised
  /-- R136: a read delivered more than CAP bytes. -/
  | transportOverrun
  /-- R142: the buffer ends inside a group. -/
  | partialGroup
deriving DecidableEq, Repr

/-- R231: the errors a RECEIVE can return. -/
inductive RxError where
  /-- R232. -/
  | overflow
  /-- R233. -/
  | transport (c : TransportCode)
  /-- R234. -/
  | timeout
deriving DecidableEq, Repr

/-- R34: what an operation returns to the host. -/
inductive Result where
  /-- ENCODE (R111). -/
  | frame (f : List Byte)
  /-- ACK_BYTE (R117). -/
  | byte (b : Byte)
  /-- RECEIVE, success (R146, R148). -/
  | ok (n : Size)
  /-- RECEIVE, error (R147). -/
  | err (e : RxError)
deriving DecidableEq, Repr

/-- R240. -/
inductive DiagKind where
  | sizeMismatch
  | sizeOutOfOrder
  | dataIgnored
  | endIgnored
  | unknownTag
deriving DecidableEq, Repr

/-- R240: `Diag(kind, pos, value)`. -/
structure DiagEvent where
  kind  : DiagKind
  pos   : Nat
  value : Nat
deriving DecidableEq, Repr

/-! ## The other two agents -/

/-- R130, R200: a move of the host. That it has no move by which it stores to its own memory between operations, so that `hostMem`
changes by `OutWrite` alone, is the model's choice (DESIGN CHOICE, log 23): R200 and R201 say nothing of such stores. -/
inductive HostAction where
  /-- Request INIT (R131). -/
  | init
  /-- Request ENCODE (R111). -/
  | encode (cmd arg : BitVec 32)
  /-- Request ACK_BYTE (R117). -/
  | ackByte
  /-- Request RECEIVE (R133). -/
  | receive (req : Size) (out : OutRegion)
  /-- R92 `HOST WRITE [bytes]`: a write of the host's own to SEND. -/
  | write (bytes : List Byte)
  /-- R200 (2): a bulk read of the host's own from RECV. -/
  | bulkRead
deriving DecidableEq, Repr

/-- A finished transport call (R60), the model's own record (log 16). The transfer type of a write is not named (U15). -/
inductive TransportCall where
  /-- R134: the framer's physical read. -/
  | framerRead (ep max timeout : Nat) (answer : ReadAnswer)
  /-- R141: the framer's ack write. -/
  | framerWrite (ep : Nat) (bytes : List Byte) (timeout : Nat) (answer : WriteAnswer)
  /-- R200 (2): the host's own write to SEND. -/
  | hostWrite (bytes : List Byte) (answer : WriteAnswer)
  /-- R200 (2): the host's own read from RECV. -/
  | hostRead (answer : ReadAnswer)
deriving DecidableEq, Repr

/-! ## The state -/

/-- The block's registers, then the two other agents' plain data, then the model's own counter. INVENTORY.md lists each
field with the rule that names it. -/
structure State where
  /-- R6: the parameters; no step changes them (log 3). -/
  cfg : Config
  /-- R21. -/
  raw : Memory
  /-- R22. -/
  consumed : Nat
  /-- R23. -/
  valid : Nat
  /-- R26. -/
  sessInit : Bool
  /-- R32, with the transfer registers R27 to R30, R33, R35. -/
  ctl : Control
  /-- R31. -/
  fault : Option FaultKind
  /-- R34: held only in the state right after an operation returned (log 11). -/
  result : Option Result
  /-- R36. -/
  diag : List DiagEvent
  /-- R50, R55: the host's memory, where output regions lie (log 9, log 23). -/
  hostMem : Memory
  /-- R130, R200: the host's next moves (log 2). -/
  hostQueue : List HostAction
  /-- R38, R60: the transport's next answers to reads (log 1). -/
  readAnswers : List ReadAnswer
  /-- R38, R60: the transport's next answers to writes (log 1). -/
  writeAnswers : List WriteAnswer
  /-- R63: the transport calls made, oldest first (log 16). -/
  calls : List TransportCall
  /-- The model's own: how many answers were drawn from the free values (log 1). -/
  draws : Nat
deriving DecidableEq, Repr

/-! ## Why a step can stop -/

/-- The machine stops. -/
inductive Fault where
  /-- Raised by every step and every instruction in a state whose `fault` register holds a kind: "the framer takes no step
  and accepts no operation" (R31, R243). Safe. -/
  | halted (k : FaultKind)
  /-- Raised by the scan when a cell of the group at `p` was never written: R21 lets a model "fault on reading one", and no
  rule reaches it. Safe (log 8). -/
  | unwrittenCell
deriving DecidableEq, Repr

/-- The instruction has no meaning where it was asked for. -/
inductive Refusal where
  /-- Raised by exec's arm of an instruction that has no meaning yet. Safe. -/
  | notModelled (mnemonic : String)
  /-- Raised by RECEIVE with `out_len < req` (R132, R244). Safe: the spec refuses it too. -/
  | outRegionTooSmall
  /-- Raised by a host request while an operation is in progress: "the model has no move for it" (R244, U20). Safe. -/
  | hostBlocked
  /-- Raised by a group outside Scan, where no group is examined (R143). No step reaches it. Safe (log 19). -/
  | notScanning
  /-- Raised by ACK in Refill or Scan, where no ack is written (R134, R143). No step reaches it. Safe (log 19). -/
  | noAckDue
  /-- Raised by a host write of bytes that are neither a frame nor an ack: not among the host's liberties (R200), and "a host
  that breaks one has no move in the model" (R201). Safe (log 15). -/
  | hostWriteRejected
deriving DecidableEq, Repr

/-! ## Reset -/

/-- R39, R260: power-on. `phase` Idle, `fault` none, `sess_init` 0, `diag` empty; the transfer registers and `result` hold no
value; no cell of `raw` holds one. `consumed` and `valid` have no value in the spec before INIT: 0 here (DESIGN CHOICE, log 5). -/
def State.reset : State where
  cfg          := Config.standard
  raw          := []
  consumed     := 0
  valid        := 0
  sessInit     := false
  ctl          := .idle
  fault        := none
  result       := none
  diag         := []
  hostMem      := []
  hostQueue    := []
  readAnswers  := []
  writeAnswers := []
  calls        := []
  draws        := 0

end Sys2Proof.Machine
end

