-- ==== Sys2Proof/Machine/Operands.lean ====
section
/-! DEFINITION. The operand forms: what a group's fields and a RECEIVE's operands stand for (spec/30_encoding.md R82, R83). -/

namespace Sys2Proof.Machine

/-- R162: `zext_W_REQ(len)`, the announced length at the width of `req`. -/
def announced (len : BitVec 16) : Size := len.setWidth 32

/-- R83: the payload of a DATA1 group; the padding is not part of it. -/
def payload1 (d0 : Byte) : List Byte := [d0]

/-- R83: the payload of a DATA2 group; the padding is not part of it. -/
def payload2 (d0 d1 : Byte) : List Byte := [d0, d1]

/-- R83: the payload of a DATA3 group. -/
def payload3 (d0 d1 d2 : Byte) : List Byte := [d0, d1, d2]

/-- R55: the host address of index `i` of an output region (log 9). -/
abbrev outAddr (out : OutRegion) (i : Nat) : Nat := out.base + i

/-- R32: the phase register as one of its six values, `none` for Idle. -/
def State.phase (s : State) : Option OpPhase :=
  match s.ctl with
  | .idle => none
  | .busy ph _ => some ph

/-- The transfer registers, where they hold values (R39). -/
def State.transfer (s : State) : Option Transfer :=
  match s.ctl with
  | .idle => none
  | .busy _ x => some x

/-- R231: the status number of a RECEIVE's result, a label of the spec's own (D15); a frame and a byte have none. -/
def Result.code : Result → Option Nat
  | .ok _ => some 0
  | .err .overflow => some 1
  | .err (.transport _) => some 2
  | .err .timeout => some 3
  | .frame _ => none
  | .byte _ => none

end Sys2Proof.Machine
end

