-- ==== Sys2Proof/Machine/Flags.lean ====
section
/-! DEFINITION. The conditions the controller tests. The block has no condition flags (spec/10_state.md R37); these are the
tests on its registers that the rules name. -/

namespace Sys2Proof.Machine

/-- R25: the session is exhausted, `consumed >= valid` (C6). -/
def exhausted (s : State) : Bool := decide (s.valid ≤ s.consumed)

/-- R162: the announced length equals `req`. -/
def sizeMatches (len : BitVec 16) (req : Size) : Bool := announced len == req

/-- R165: `written + n > req`, on the exact sum (R9). -/
def overflows (written n : Nat) (req : Size) : Bool := decide (req.toNat < written + n)

/-- R165: `written = req`, tested after a chunk. -/
def completes (written : Nat) (req : Size) : Bool := written == req.toNat

/-- R140: the pass is over, `p >= valid`. -/
def passEnded (s : State) (x : Transfer) : Bool := decide (s.valid ≤ x.p)

/-- R142: the buffer ends inside the group at `p`, `valid < p + 4`. -/
def endsInsideGroup (s : State) (x : Transfer) : Bool := decide (s.valid < x.p + 4)

/-- R137: `TIMEOUT_RETRY_LIMIT != none and tries > TIMEOUT_RETRY_LIMIT`. -/
def retriesExceeded (limit : Option Nat) (tries : Nat) : Bool :=
  match limit with
  | none => false
  | some l => decide (l < tries)

/-- R132: the region is too short, `out_len < req_in`. -/
def regionTooSmall (req : Size) (out : OutRegion) : Bool := decide (out.len < req.toNat)

/-- R136: the read broke the transport's duty, `len(bytes) > CAP`. -/
def overruns (cap : Nat) (bytes : List Byte) : Bool := decide (cap < bytes.length)

end Sys2Proof.Machine
end

