-- ==== Sys2Proof/Machine/Ops.lean ====
section
/-! DEFINITION. The named operations every meaning is written over: memory (spec/20_memory.md), transport calls, diagnostic
events, the abort of a RECEIVE (R147, "the framer's equivalent of taking a trap", R236) and the raising of a fault (R243).
There is no return from an error (R237): an abort leaves the block Idle. -/

namespace Sys2Proof.Machine

/-! ## Memory -/

/-- The byte at an address, if it holds a value. -/
def Memory.read (m : Memory) (a : Nat) : Option Byte := (m.find? fun c => c.1 == a).map (·.2)

/-- The cells of consecutive bytes from an address on. -/
def cellsFrom (base : Nat) : List Byte → Memory
  | [] => []
  | b :: bs => (base, b) :: cellsFrom (base + 1) bs

/-- Store consecutive bytes from an address on, in order (R52: the first delivered byte at the lowest index). -/
def Memory.writeBlock (m : Memory) (base : Nat) (bs : List Byte) : Memory :=
  (m.filter fun c => decide (c.1 < base)) ++ cellsFrom base bs ++
    m.filter fun c => decide (base + bs.length ≤ c.1)

/-- Store one byte. -/
def Memory.write (m : Memory) (a : Nat) (b : Byte) : Memory := m.writeBlock a [b]

/-- R51: `MemRead(p, 4)`, if all four cells hold a value (R21). -/
def readGroup (m : Memory) (p : Nat) : Option Group :=
  match m.read p, m.read (p + 1), m.read (p + 2), m.read (p + 3) with
  | some t, some b1, some b2, some b3 => some ⟨t, b1, b2, b3⟩
  | _, _, _, _ => none

/-- R55: `OutWrite(i, b)`. -/
def outWrite (m : Memory) (out : OutRegion) (i : Nat) (b : Byte) : Memory := m.write (outAddr out i) b

/-- R54, R165: single-byte `OutWrite`s in increasing index order, from index `i` on. -/
def outWrites (m : Memory) (out : OutRegion) (i : Nat) : List Byte → Memory
  | [] => m
  | b :: bs => outWrites (outWrite m out i b) out (i + 1) bs

/-! ## Transport calls -/

/-- The transport's answer to the next read: the next listed one, else a free draw (R38, R60; log 1). -/
def nextReadAnswer (s : State) : ReadAnswer :=
  match s.readAnswers with
  | a :: _ => a
  | [] => Config.freeRead s.draws

/-- The transport's answer to the next write: the next listed one, else a free draw (R38, R60; log 1). -/
def nextWriteAnswer (s : State) : WriteAnswer :=
  match s.writeAnswers with
  | a :: _ => a
  | [] => Config.freeWrite s.draws

/-- The transport's side of a read: its answer is used up and the call is on record (R62). -/
def State.afterRead (s : State) (call : TransportCall) : State :=
  { s with
    readAnswers := s.readAnswers.tail
    draws := if s.readAnswers.isEmpty then s.draws + 1 else s.draws
    calls := s.calls ++ [call] }

/-- The transport's side of a write: its answer is used up and the call is on record. -/
def State.afterWrite (s : State) (call : TransportCall) : State :=
  { s with
    writeAnswers := s.writeAnswers.tail
    draws := if s.writeAnswers.isEmpty then s.draws + 1 else s.draws
    calls := s.calls ++ [call] }

/-- R134: `BulkRead(EP_RECV, CAP, READ_TIMEOUT)`, the call made and answered. -/
def State.physicalRead (s : State) : State :=
  s.afterRead (.framerRead s.cfg.epRecv s.cfg.cap s.cfg.readTimeout (nextReadAnswer s))

/-- R141: `IntWrite(EP_SEND, [0x44], WRITE_TIMEOUT)`, the call made and answered. No register changes. -/
def State.ackWrite (s : State) : State :=
  s.afterWrite (.framerWrite s.cfg.epSend [ackValue] s.cfg.writeTimeout (nextWriteAnswer s))

/-- R200 (2), R65: a write of the host's own to SEND. "A transport call by the host changes no framer register": the session is
"owned exclusively by the protocol layer". -/
def State.hostWrites (s : State) (bytes : List Byte) : State :=
  s.afterWrite (.hostWrite bytes (nextWriteAnswer s))

/-- R200 (2), R65, R272: a bulk read of the host's own takes device bytes that the framer will then never see, and writes
nothing of the session (log 21). -/
def State.hostReads (s : State) : State := s.afterRead (.hostRead (nextReadAnswer s))

/-! ## Diagnostic events, phases, results -/

/-- R240: `emit Diag(kind, pos, value)`. -/
def State.emit (s : State) (k : DiagKind) (pos value : Nat) : State :=
  { s with diag := s.diag ++ [⟨k, pos, value⟩] }

/-- R32: go to a phase of the RECEIVE with these transfer registers. -/
def State.goTo (s : State) (ph : OpPhase) (x : Transfer) : State := { s with ctl := .busy ph x }

/-- R10 `return v` of an operation that leaves the block Idle (R34). -/
def State.returnWith (s : State) (r : Result) : State := { s with result := some r, ctl := .idle }

/-- R34: the result "is handed to the host once, when the operation returns, and after that it holds no value". The state in
which the operation has returned shows the result, and the next step of the Idle block, whatever it is, starts with the host
having taken it (log 11). -/
def State.handOver (s : State) : State := { s with result := none }

/-! ## Faults and aborts -/

/-- R31, R243: `raise Fault(k)` sets the register to `k` if it is none. -/
def State.raiseFault (s : State) (k : FaultKind) : State :=
  { s with fault := some (s.fault.getD k) }

/-- R147: what `consumed` becomes when a RECEIVE aborts, by the phase the abort comes from and, from Scan and CompleteAck,
by ABORT_OFFSET_POLICY. -/
def abortOffset (s : State) (ph : OpPhase) (x : Transfer) : Nat :=
  match ph with
  | .refill => s.consumed
  | .timeoutAck => s.consumed
  | .finalAck => s.consumed
  | .scan =>
    match s.cfg.abortPolicy with
    | .exhaust => s.valid
    | .afterGroup => x.p + 4
    | .unchanged => s.consumed
  | .completeAck =>
    match s.cfg.abortPolicy with
    | .exhaust => s.valid
    | .afterGroup => x.p + 4
    | .unchanged => s.consumed

/-- R147, R236: `abort E` from a phase. The session offset is set, the transfer registers are dropped, the error is handed
to the host and the block is Idle; `valid` and `raw` are not written. -/
def State.abort (s : State) (ph : OpPhase) (x : Transfer) (e : RxError) : State :=
  { s with consumed := abortOffset s ph x, result := some (.err e), ctl := .idle }

/-! ## Acceptance -/

/-- R130: a host move is made only when `fault = none` and `phase = Idle`. -/
def whenIdle (s : State) (k : Host.Outcome State Fault Refusal) : Host.Outcome State Fault Refusal :=
  match s.fault, s.ctl with
  | some f, _ => .fault (.halted f)
  | none, .idle => k
  | none, .busy _ _ => .refused .hostBlocked

/-- R143: a group is examined only in Scan, with `fault = none`. -/
def inScan (s : State) (k : Transfer → Host.Outcome State Fault Refusal) : Host.Outcome State Fault Refusal :=
  match s.fault, s.ctl with
  | some f, _ => .fault (.halted f)
  | none, .busy .scan x => k x
  | none, _ => .refused .notScanning

end Sys2Proof.Machine
end

