-- ==== Sys2Proof/Machine/Encoder.lean ====
section
/-! DEFINITION. CommandEncoder and AckSignal (spec/40_command_encoder.md), and the frame and the ack as they go over the wire. -/

namespace Sys2Proof.Machine

/-- R111: the 11-byte command frame, in the rule's own words over `be32_bytes`. -/
def frameOf (cmd arg : BitVec 32) : List Byte :=
  match be32Bytes cmd, be32Bytes arg with
  | [c0, c1, c2, c3], [a0, a1, a2, a3] =>
    [frameTag3, c0, c1, c2, frameTag3, c3, a0, a1, frameTag2, a2, a3]
  | _, _ => []

/-- ENCODE (R110 to R113): `result` only. -/
def execEncodeCmd (cmd arg : BitVec 32) (s : State) : Host.Outcome State Fault Refusal :=
  whenIdle s (.next (s.returnWith (.frame (frameOf cmd arg))))

/-- ACK_BYTE (R117): `result` only. -/
def execAckByte (s : State) : Host.Outcome State Fault Refusal :=
  whenIdle s (.next (s.returnWith (.byte ackValue)))

/-- CMD_FRAME (R86): the frame on the wire. The framer never sends it (R113, D29): the host writes it to SEND between
operations (R200, R203), and no framer register changes (log 13). -/
def execCmdFrame (cmd arg : BitVec 32) (s : State) : Host.Outcome State Fault Refusal :=
  whenIdle s (.next (s.hostWrites (encode (.cmdFrame cmd arg))))

/-- R139: the ack after a read timeout. -/
def timeoutAckStep (s : State) (x : Transfer) : State :=
  match nextWriteAnswer s with
  | .ok => s.ackWrite.goTo .refill x
  | .err c => s.ackWrite.abort .timeoutAck x (.transport c)

/-- R144: the completion ack; the scan goes on with the next group. -/
def completeAckStep (s : State) (x : Transfer) : State :=
  match nextWriteAnswer s with
  | .ok => s.ackWrite.goTo .scan { x with p := x.p + 4 }
  | .err c => s.ackWrite.abort .completeAck x (.transport c)

/-- R146: the final ack; the operation returns either way, and `consumed` keeps what R145 recorded. -/
def finalAckStep (s : State) (x : Transfer) : State :=
  match nextWriteAnswer s with
  | .ok => s.ackWrite.returnWith (.ok x.req)
  | .err c => s.ackWrite.returnWith (.err (.transport c))

/-- ACK (R88): the ack on the wire, `SendAck()` of R141 in the three phases that write one (R139, R144, R146), and in Idle
the host's own ack write (R118, R200). Refill and Scan write no ack (log 13, log 19). -/
def execAck (s : State) : Host.Outcome State Fault Refusal :=
  match s.fault, s.ctl with
  | some f, _ => .fault (.halted f)
  | none, .idle => .next (s.hostWrites (encode .ack))
  | none, .busy .timeoutAck x => .next (timeoutAckStep s x)
  | none, .busy .completeAck x => .next (completeAckStep s x)
  | none, .busy .finalAck x => .next (finalAckStep s x)
  | none, .busy .refill _ => .refused .noAckDue
  | none, .busy .scan _ => .refused .noAckDue

end Sys2Proof.Machine
end

