-- ==== Sys2Proof/Machine/Groups.lean ====
section
/-! DEFINITION. The tag dispatcher and payload reassembly (spec/42_tag_dispatch.md), one meaning per group row. Each is the
dispatch of R160 followed by what the controller does with its outcome (R143). -/

namespace Sys2Proof.Machine

/-! ## What the controller does with an outcome (R143) -/

/-- R143, outcome `Next`: `p <- p + 4`, stay in Scan. -/
def State.nextGroup (s : State) (x : Transfer) : State := s.goTo .scan { x with p := x.p + 4 }

/-- R143, outcome `AckThenNext`: `phase <- CompleteAck`, `p` still names this group. -/
def State.ackThenNext (s : State) (x : Transfer) : State := s.goTo .completeAck x

/-- R145, outcome `Done`: `consumed <- p + 4`, `phase <- FinalAck`. -/
def State.finish (s : State) (x : Transfer) : State := { s with consumed := x.p + 4, ctl := .busy .finalAck x }

/-! ## SIZE_ANNOUNCE -/

/-- R162, R163, R164. -/
def sizeStep (len : BitVec 16) (s : State) (x : Transfer) : State :=
  match x.tstate with
  | .waitingForSize =>
    if sizeMatches len x.req then s.nextGroup { x with tstate := .receiving, written := 0 }
    else (s.emit .sizeMismatch x.p len.toNat).nextGroup x
  | .receiving => (s.emit .sizeOutOfOrder x.p len.toNat).nextGroup x
  | .waitingForEnd => (s.emit .sizeOutOfOrder x.p len.toNat).nextGroup x

/-- SIZE_ANNOUNCE (R82: byte 1 is not read). -/
def execSizeAnnounce (_b1 : Byte) (len : BitVec 16) (s : State) : Host.Outcome State Fault Refusal :=
  inScan s fun x => .next (sizeStep len s x)

/-! ## DATA -/

/-- R165: the payload bytes of a chunk go to `out[written .. written+n)`, one `OutWrite` each. -/
def State.storeChunk (s : State) (x : Transfer) (bytes : List Byte) : State :=
  { s with hostMem := outWrites s.hostMem x.out x.written bytes }

/-- R165, a chunk that fits: it is stored and counted, and a full transfer asks for its ack. -/
def acceptChunk (bytes : List Byte) (s : State) (x : Transfer) : State :=
  let written := x.written + bytes.length
  if completes written x.req then (s.storeChunk x bytes).ackThenNext { x with written := written, tstate := .waitingForEnd }
  else (s.storeChunk x bytes).nextGroup { x with written := written }

/-- R165 in Receiving (the overflow test comes before any write, R176, R238), R169 and R170 elsewhere. -/
def dataStep (tag : Byte) (bytes : List Byte) (s : State) (x : Transfer) : State :=
  match x.tstate with
  | .receiving =>
    if overflows x.written bytes.length x.req then s.abort .scan x .overflow
    else acceptChunk bytes s x
  | .waitingForSize => (s.emit .dataIgnored x.p tag.toNat).nextGroup x
  | .waitingForEnd => (s.emit .dataIgnored x.p tag.toNat).nextGroup x

/-- DATA1 (R166; R83: the padding is not read). -/
def execData1 (d0 : Byte) (_pad : BitVec 16) (s : State) : Host.Outcome State Fault Refusal :=
  inScan s fun x => .next (dataStep tagD1 (payload1 d0) s x)

/-- DATA2 (R167; R83: the padding is not read). -/
def execData2 (d0 d1 : Byte) (_pad : Byte) (s : State) : Host.Outcome State Fault Refusal :=
  inScan s fun x => .next (dataStep tagD2 (payload2 d0 d1) s x)

/-- DATA3 (R168). -/
def execData3 (d0 d1 d2 : Byte) (s : State) : Host.Outcome State Fault Refusal :=
  inScan s fun x => .next (dataStep tagD3 (payload3 d0 d1 d2) s x)

/-! ## END -/

/-- R171 with R145 in WaitingForEnd, R172 elsewhere. -/
def endStep (s : State) (x : Transfer) : State :=
  match x.tstate with
  | .waitingForEnd => s.finish x
  | .waitingForSize => (s.emit .endIgnored x.p tagEnd.toNat).nextGroup x
  | .receiving => (s.emit .endIgnored x.p tagEnd.toNat).nextGroup x

/-- END (R84: its other bytes are not read). -/
def execEndMark (_pad : BitVec 24) (s : State) : Host.Outcome State Fault Refusal :=
  inScan s fun x => .next (endStep s x)

/-! ## UNKNOWN -/

/-- UNKNOWN (R173), in any transfer state. -/
def execUnknown (t : Byte) (_rest : BitVec 24) (s : State) : Host.Outcome State Fault Refusal :=
  inScan s fun x => .next ((s.emit .unknownTag x.p t.toNat).nextGroup x)

end Sys2Proof.Machine
end

