-- ==== Sys2Proof/Machine/Receive.lean ====
section
/-! DEFINITION. The session operations INIT and RECEIVE and the controller's own steps (spec/41_receive.md). -/

namespace Sys2Proof.Machine

/-- INIT (R131): the session is empty and exhausted; `raw`, `fault` and `diag` are not changed. No value is returned, so
`result` holds none after it (R39; log 11). It runs in every Idle block, as R130, R200 (1), R131's corner case and R264 have it,
also between the RECEIVEs of one exchange, where R201 gives a host that breaks its duty no move (DEDUCED, log 24). -/
def execInit (s : State) : Host.Outcome State Fault Refusal :=
  whenIdle s (.next { s with consumed := 0, valid := 0, sessInit := true, result := none })

/-- R133: the transfer registers at RECEIVE start. `p` is `consumed`; in the Refill branch the spec gives `p` no value, and
R135 writes it before any rule reads it (log 7). -/
def startTransfer (req : Size) (out : OutRegion) (s : State) : Transfer where
  tstate  := .waitingForSize
  req     := req
  written := 0
  p       := s.consumed
  tries   := 0
  out     := out

/-- RECEIVE (R132, R133): the two checks in the spec's order, then the start of the transfer, by a physical read only if
the session is exhausted (R151). `result` holds no value from here to the return (R39). -/
def execReceive (req : Size) (out : OutRegion) (s : State) : Host.Outcome State Fault Refusal :=
  whenIdle s <|
    if s.sessInit = false then .next (s.raiseFault .sessionUninitialised)
    else if regionTooSmall req out then .refused .outRegionTooSmall
    else
      let s' : State := { s with result := none }
      if exhausted s then .next (s'.goTo .refill (startTransfer req out s))
      else .next (s'.goTo .scan (startTransfer req out s))

/-- R135: a successful physical read fills the session buffer from cell 0. -/
def fillBuffer (s : State) (x : Transfer) (bytes : List Byte) : State :=
  { s with
    raw := s.raw.writeBlock 0 bytes
    consumed := 0
    valid := bytes.length
    ctl := .busy .scan { x with p := 0 } }

/-- R134 to R138: one physical read and what its answer does. -/
def refillStep (s : State) (x : Transfer) : State :=
  match nextReadAnswer s with
  | .ok bytes =>
    if overruns s.cfg.cap bytes then s.physicalRead.raiseFault .transportOverrun
    else fillBuffer s.physicalRead x bytes
  | .timeout =>
    if retriesExceeded s.cfg.retryLimit (x.tries + 1) then s.physicalRead.abort .refill x .timeout
    else s.physicalRead.goTo .timeoutAck { x with tries := x.tries + 1 }
  | .err c => s.physicalRead.abort .refill x (.transport c)

/-- R140: the end of a pass; the buffer is exhausted and another physical read follows. -/
def endPassStep (s : State) (x : Transfer) : State :=
  { s with consumed := s.valid, ctl := .busy .refill { x with tries := 0 } }

end Sys2Proof.Machine
end

