-- ==== Sys2Proof/Machine/Dispatch.lean ====
section
/-! DEFINITION. One arm per instruction. -/

namespace Sys2Proof.Machine

def exec (i : Instr) (s : State) : Host.Outcome State Fault Refusal :=
  match i with
  | .sizeAnnounce b1 len => Sys2Proof.Machine.execSizeAnnounce b1 len s
  | .data1 d0 pad => Sys2Proof.Machine.execData1 d0 pad s
  | .data2 d0 d1 pad => Sys2Proof.Machine.execData2 d0 d1 pad s
  | .data3 d0 d1 d2 => Sys2Proof.Machine.execData3 d0 d1 d2 s
  | .endMark pad => Sys2Proof.Machine.execEndMark pad s
  | .unknown t rest => Sys2Proof.Machine.execUnknown t rest s
  | .cmdFrame cmd arg => Sys2Proof.Machine.execCmdFrame cmd arg s
  | .ack => Sys2Proof.Machine.execAck s
  | .init => Sys2Proof.Machine.execInit s
  | .encodeCmd cmd arg => Sys2Proof.Machine.execEncodeCmd cmd arg s
  | .ackByte => Sys2Proof.Machine.execAckByte s
  | .receive req out => Sys2Proof.Machine.execReceive req out s

end Sys2Proof.Machine
end

