-- ==== Sys2Proof/Machine/Fetch.lean ====
section
/-! DEFINITION. What the machine does next: the group at the scan cursor, an ack that is due, the host's next move, or a step
of the controller that runs no instruction (spec/10_state.md R32, "rule that acts in it"). -/

namespace Sys2Proof.Machine

/-- What a step consists of. -/
inductive Fetched where
  /-- Run this instruction in this state. -/
  | run (i : Instr) (s : State)
  /-- A step that runs no instruction, with its next state. -/
  | move (s : State)
  /-- The machine is stopped. -/
  | halt (f : Fault)
  /-- The host's move has no meaning. -/
  | refuse (r : Refusal)
deriving DecidableEq, Repr

/-- R130, R200: the host's move, taken off its queue, in an Idle block. -/
def hostMove (a : HostAction) (s : State) : Fetched :=
  match a with
  | .init => .run .init s
  | .encode cmd arg => .run (.encodeCmd cmd arg) s
  | .ackByte => .run .ackByte s
  | .receive req out => .run (.receive req out) s
  | .write bytes =>
    match decode .toDevice bytes with
    | .ok i => .run i s
    | .error _ => .refuse .hostWriteRejected
  | .bulkRead => .move s.hostReads

/-- R260: with no request the block waits in Idle (log 2). Either way the host has taken the result of the operation that
returned last (R34; log 11). -/
def fetchHost (s : State) : Fetched :=
  match s.hostQueue with
  | [] => .move s.handOver
  | a :: rest => hostMove a { s.handOver with hostQueue := rest }

/-- Phase Scan, in the order of R238: end of pass (R140), partial trailing group (R142), dispatch (R143). -/
def fetchScan (s : State) (x : Transfer) : Fetched :=
  if passEnded s x then .move (endPassStep s x)
  else if endsInsideGroup s x then .move (s.raiseFault .partialGroup)
  else
    match readGroup s.raw x.p with
    | some g => .run (decodeGroup g) s
    | none => .halt .unwrittenCell

/-- R31, R32: nothing while `fault` is set, else the rule that acts in the phase. -/
def fetch (s : State) : Fetched :=
  match s.fault, s.ctl with
  | some k, _ => .halt (.halted k)
  | none, .idle => fetchHost s
  | none, .busy .refill x => .move (refillStep s x)
  | none, .busy .timeoutAck _ => .run .ack s
  | none, .busy .scan x => fetchScan s x
  | none, .busy .completeAck _ => .run .ack s
  | none, .busy .finalAck _ => .run .ack s

/-! ## Placing one instruction where the next step fetches it (log 14) -/

/-- The transfer registers a placed group is examined with: those of the RECEIVE in progress, else those of a RECEIVE of 0
bytes that has just started (R133). -/
def placedTransfer (s : State) : Transfer :=
  match s.ctl with
  | .idle => startTransfer 0 ⟨0, 0⟩ s
  | .busy _ x => x

/-- A group as a physical read of just its 4 bytes would leave it (R135), in phase Scan of an initialised session. -/
def placeGroup (s : State) (bytes : List Byte) : State :=
  fillBuffer { s with sessInit := true } (placedTransfer s) bytes

/-- A frame or an ack as the host's next write, in an Idle block. -/
def placeHostWrite (s : State) (bytes : List Byte) : State :=
  { s with ctl := .idle, hostQueue := .write bytes :: s.hostQueue }

/-- The bits of a row, where the step fetches that row's instruction. -/
def placeWord (s : State) (nbits w : Nat) : State :=
  match channelOfBits nbits with
  | some .fromDevice => placeGroup s (bytesOfWord (nbits / 8) w)
  | some .toDevice => placeHostWrite s (bytesOfWord (nbits / 8) w)
  | none => s

end Sys2Proof.Machine
end

