-- ==== Sys2Proof/Machine/Step.lean ====
section
/-! DEFINITION. One step of the machine (spec/00_scope.md R5): one transport interaction, or the examination of one group, or
one host move. -/

namespace Sys2Proof.Machine

/-- Fetch, and run what is fetched. -/
def step (s : State) : Host.Outcome State Fault Refusal :=
  match fetch s with
  | .run i s' => exec i s'
  | .move s' => .next s'
  | .halt f => .fault f
  | .refuse r => .refused r

/-- The instruction of a table row, placed where `step` fetches its next instruction (log 14). -/
def State.withFetchWord (s : State) (nbits w : Nat) : State := placeWord s nbits w

end Sys2Proof.Machine
end

