-- ==== Sys2Proof/Safety.lean ====
section
/-! DEFINITION. What claims speak of: the invariant of the machine, states that agree but for the trace that no claim may rest
on, and runs that have not faulted. -/

namespace Sys2Proof.Machine

/-- R31, R243: "A faulted state is not a finished run": no claim of success may hold of it. -/
abbrev State.Faulted (s : State) : Prop := s.fault ≠ none

/-- R36, R240: two states that agree but for the diagnostic trace, which no rule reads and no claim may rest on. -/
abbrev SameButDiag (s t : State) : Prop := { s with diag := [] } = { t with diag := [] }

/-- R200: the block's own registers, parameters and trace agree (10_state.md), whatever the host and the transport did. -/
abbrev SameRegisters (s t : State) : Prop :=
  s.cfg = t.cfg ∧ s.raw = t.raw ∧ s.consumed = t.consumed ∧ s.valid = t.valid ∧ s.sessInit = t.sessInit ∧
    s.ctl = t.ctl ∧ s.fault = t.fault ∧ s.result = t.result ∧ s.diag = t.diag

/-- R24: `consumed <= valid <= CAP`. -/
abbrev OffsetsInOrder (s : State) : Prop := s.consumed ≤ s.valid ∧ s.valid ≤ s.cfg.cap

/-- What holds of the session and the cursor in each phase of a RECEIVE (R25, R30, R133, R140, R143 to R145). -/
abbrev PhaseInv (s : State) (ph : OpPhase) (x : Transfer) : Prop :=
  match ph with
  | .refill => s.consumed = s.valid
  | .timeoutAck => s.consumed = s.valid
  | .scan => s.consumed ≤ x.p ∧ x.p ≤ s.valid ∧ x.p % 4 = 0
  | .completeAck => s.consumed ≤ x.p ∧ x.p + 4 ≤ s.valid ∧ x.p % 4 = 0 ∧ x.tstate = .waitingForEnd
  | .finalAck => x.tstate = .waitingForEnd

/-- What holds of the transfer registers in every phase of a RECEIVE (R29 with its corner case, R33, R55). -/
structure TransferInv (c : Config) (x : Transfer) : Prop where
  /-- R55: `req <= out_len`. -/
  region : x.req.toNat ≤ x.out.len
  /-- R29: `written <= req`. -/
  bounded : x.written ≤ x.req.toNat
  /-- R133: nothing is written before the announcement. -/
  unstarted : x.tstate = .waitingForSize → x.written = 0
  /-- R29: `written < req` in Receiving, but for `req = 0`. -/
  unfinished : x.tstate = .receiving → x.written < x.req.toNat ∨ x.req = 0
  /-- R29: `written = req` in WaitingForEnd, which a RECEIVE of 0 bytes never reaches (R162). -/
  finished : x.tstate = .waitingForEnd → x.written = x.req.toNat ∧ x.req ≠ 0
  /-- R33, R137: between steps `tries` is within the retry limit. -/
  retries : ∀ l, c.retryLimit = some l → x.tries ≤ l

/-- The invariant of the machine: what the spec's rules say of every state between steps. -/
structure State.Inv (s : State) : Prop where
  /-- R6. -/
  legal : s.cfg.Legal
  /-- `raw` and the host's memory are in canonical form. -/
  rawWf : s.raw.wf
  hostWf : s.hostMem.wf
  /-- R21: `raw` has the cells 0 to CAP-1. -/
  rawBound : ∀ c ∈ s.raw, c.1 < s.cfg.cap
  /-- R21: every cell below `valid` holds a value. -/
  rawWritten : ∀ i, i < s.valid → (s.raw.read i).isSome
  /-- R24. -/
  offsets : OffsetsInOrder s
  /-- R24's multiple of 4, with the one exception that the rules make (log 12). -/
  stride : s.consumed % 4 = 0 ∨ s.consumed = s.valid
  /-- R34, R39: `result` holds no value inside a RECEIVE. -/
  pending : ∀ ph x, s.ctl = .busy ph x → s.result = none
  /-- R132: a RECEIVE runs only on an initialised session. -/
  session : ∀ ph x, s.ctl = .busy ph x → s.sessInit = true
  transfer : ∀ ph x, s.ctl = .busy ph x → TransferInv s.cfg x
  phase : ∀ ph x, s.ctl = .busy ph x → PhaseInv s ph x

end Sys2Proof.Machine
end

