-- ==== Sys2Proof/Certificates/Slice0/Obligations.lean ====
section
/-! DEFINITION. The statements for the provers. OBLIGATIONS.json lists them with the rules of spec/ they come from.
No statement rests on the diagnostic trace (R240), on a numeric result code (U29) or on whether an overflowing chunk copies the
bytes that would have fitted (U12, U13); where a group's rule emits an event, the statement compares states but for the trace
(`SameButDiag`). -/

open Sys2Proof Sys2Proof.Machine

/-! ## Words the statements share -/

/-- R83: the payload a DATA group carries; no other instruction carries one. -/
def Sys2Proof.Machine.chunkOf : Instr → Option (List Byte)
  | .data1 d0 _ => some [d0]
  | .data2 d0 d1 _ => some [d0, d1]
  | .data3 d0 d1 d2 => some [d0, d1, d2]
  | _ => none

/-- R161: the cells of the dispatch table that are "log and ignore". -/
def Sys2Proof.Machine.Ignored : Instr → Transfer → Prop
  | .sizeAnnounce _ len, x => ¬(x.tstate = .waitingForSize ∧ len.toNat = x.req.toNat)
  | .data1 _ _, x => x.tstate ≠ .receiving
  | .data2 _ _ _, x => x.tstate ≠ .receiving
  | .data3 _ _ _, x => x.tstate ≠ .receiving
  | .endMark _, x => x.tstate ≠ .waitingForEnd
  | .unknown _ _, _ => True
  | _, _ => False

/-- R80: the rows that are chunk groups. -/
def Sys2Proof.Machine.isGroup (i : Instr) : Prop := i.channel = some .fromDevice

/-- R130: the instruction that a move of the host asks for, if it asks for one. -/
def Sys2Proof.Machine.requested : HostAction → Option Instr
  | .init => some .init
  | .encode cmd arg => some (.encodeCmd cmd arg)
  | .ackByte => some .ackByte
  | .receive req out => some (.receive req out)
  | .write bytes =>
    match decode .toDevice bytes with
    | .ok i => some i
    | .error _ => none
  | .bulkRead => none

/-- R147: the session offset that ABORT_OFFSET_POLICY gives an abort from Scan or CompleteAck at cursor `p`. -/
def Sys2Proof.Machine.policyOffset (s : State) (p : Nat) : Nat :=
  match s.cfg.abortPolicy with
  | .exhaust => s.valid
  | .afterGroup => p + 4
  | .unchanged => s.consumed

/-- The host bytes of an output region's first `n` indices (R55). -/
def Sys2Proof.Machine.InRegion (out : OutRegion) (n a : Nat) : Prop := outAddr out 0 ≤ a ∧ a < outAddr out n

/-- The transport's side of one framer read (R134), no register touched. -/
def Sys2Proof.Machine.ReadOnWire (s t : State) : Prop :=
  t.readAnswers = s.readAnswers.tail ∧ t.writeAnswers = s.writeAnswers ∧
    t.calls = s.calls ++ [.framerRead s.cfg.epRecv s.cfg.cap s.cfg.readTimeout (nextReadAnswer s)]

/-- The transport's side of one framer write: one byte, 0x44, to SEND (R141). -/
def Sys2Proof.Machine.AckOnWire (s t : State) : Prop :=
  t.writeAnswers = s.writeAnswers.tail ∧ t.readAnswers = s.readAnswers ∧
    t.calls = s.calls ++ [.framerWrite s.cfg.epSend [0x44] s.cfg.writeTimeout (nextWriteAnswer s)]

/-- The two states agree on everything but the transport's side: every register, the parameters, the trace, the host's memory
and its moves. -/
def Sys2Proof.Machine.SameButWire (s t : State) : Prop :=
  SameRegisters s t ∧ s.hostMem = t.hostMem ∧ s.hostQueue = t.hostQueue

/-- The payload bytes of the DATA group that a step accepts in Receiving; nothing for any other step (R175's sequence D). -/
def Sys2Proof.Machine.acceptedBytes (s : State) : List Byte :=
  match s.ctl with
  | .busy .scan x =>
    if x.tstate = .receiving ∧ x.p + 4 ≤ s.valid then
      match readGroup s.raw x.p with
      | some g =>
        match chunkOf (decodeGroup g) with
        | some bs => if x.written + bs.length ≤ x.req.toNat then bs else []
        | none => []
      | none => []
    else []
  | _ => []

/-- The concatenation of the payloads accepted in `k` steps, in scan order (R175). -/
def Sys2Proof.Machine.collected : Nat → State → List Byte
  | 0, _ => []
  | k + 1, s =>
    match step s with
    | .next t => acceptedBytes s ++ collected k t
    | _ => []

/-- All of the first `k` steps start inside a RECEIVE: they belong to one and the same call. -/
def Sys2Proof.Machine.insideReceive : Nat → State → Prop
  | 0, _ => True
  | k + 1, s =>
    (∃ ph x, s.ctl = .busy ph x) ∧
      match step s with
      | .next t => insideReceive k t
      | _ => False

/-- How many acks the framer has written (R141). -/
def Sys2Proof.Machine.acksWritten (s : State) : Nat :=
  s.calls.countP fun c => match c with
    | .framerWrite _ _ _ _ => true
    | _ => false

/-- How many of the framer's reads have timed out (R137). -/
def Sys2Proof.Machine.readTimeouts (s : State) : Nat :=
  s.calls.countP fun c => match c with
    | .framerRead _ _ _ .timeout => true
    | _ => false

/-! ## Encodings -/

/-- Words written out from the spec's encodings: R82's and R83's examples, R84, R85, R88 and vector V-E3 of R86. -/
def Obligations.SpecWordsDecode : Prop :=
  decode .fromDevice [0x1B, 0x00, 0x10, 0x00] = .ok (.sizeAnnounce 0x00 4096) ∧
  decode .fromDevice [0x1B, 0xFF, 0x00, 0x05] = .ok (.sizeAnnounce 0xFF 5) ∧
  decode .fromDevice [0x1D, 0x7E, 0x99, 0x98] = .ok (.data1 0x7E 0x9998) ∧
  decode .fromDevice [0x1E, 0xDD, 0xEE, 0x00] = .ok (.data2 0xDD 0xEE 0x00) ∧
  decode .fromDevice [0x1F, 0xAA, 0xBB, 0xCC] = .ok (.data3 0xAA 0xBB 0xCC) ∧
  decode .fromDevice [0x15, 0x00, 0x00, 0x00] = .ok (.endMark 0) ∧
  decode .fromDevice [0x1C, 0x01, 0x02, 0x03] = .ok (.unknown 0x1C 0x010203) ∧
  decode .toDevice [0x44] = .ok .ack ∧
  decode .toDevice [0x43, 0x11, 0x22, 0x33, 0x43, 0x44, 0x55, 0x66, 0x42, 0x77, 0x88] =
    .ok (.cmdFrame 0x11223344 0x55667788)

/-- R80 to R88: decoding the encoding of any well-formed instruction that goes over the wire gives it back, at every value of
every operand. -/
def Obligations.DecodeAfterEncode : Prop :=
  ∀ (i : Instr) (ch : Channel), i.wf = true → i.channel = some ch → decode ch (encode i) = .ok i

/-- R80 to R88: what the decoder accepts is the encoding of what it answers, so each byte string has one meaning. -/
def Obligations.EncodeAfterDecode : Prop :=
  ∀ (ch : Channel) (bs : List Byte) (i : Instr),
    decode ch bs = .ok i → i.wf = true ∧ i.channel = some ch ∧ encode i = bs

/-- R81, R82, R83, R85, R91: every group has a class, decided by equality on its tag alone, and no tag is illegal. -/
def Obligations.GroupClassDecidedByTag : Prop :=
  ∀ t b1 b2 b3 : Byte, ∃ i, decode .fromDevice [t, b1, b2, b3] = .ok i ∧
    (t = 0x1B → i = .sizeAnnounce b1 (BitVec.ofNat 16 (b2.toNat * 256 + b3.toNat))) ∧
    (t = 0x1D → chunkOf i = some [b1]) ∧
    (t = 0x1E → chunkOf i = some [b1, b2]) ∧
    (t = 0x1F → chunkOf i = some [b1, b2, b3]) ∧
    (t = 0x15 → ∃ pad, i = .endMark pad) ∧
    (t ≠ 0x1B → t ≠ 0x1D → t ≠ 0x1E → t ≠ 0x1F → t ≠ 0x15 → ∃ rest, i = .unknown t rest)

/-- R115: the frame that ENCODE computes decodes to its two operands, so ENCODE is injective. -/
def Obligations.FrameDecodesToItsOperands : Prop :=
  (∀ cmd arg : BitVec 32, decode .toDevice (frameOf cmd arg) = .ok (.cmdFrame cmd arg)) ∧
  ∀ cmd arg cmd' arg' : BitVec 32, frameOf cmd arg = frameOf cmd' arg' → cmd = cmd' ∧ arg = arg'

/-! ## ENCODE, ACK_BYTE, the host's own writes -/

/-- R111: ENCODE returns the frame `[43 c0 c1 c2 43 c3 a0 a1 42 a2 a3]`, writes `result` only and leaves the block Idle. -/
def Obligations.EncodeReturnsTheFrame : Prop :=
  ∀ (s : State) (cmd arg : BitVec 32), s.fault = none → s.ctl = .idle →
    exec (.encodeCmd cmd arg) s = .next { s with result := some (.frame
      [0x43, cmd.extractLsb' 24 8, cmd.extractLsb' 16 8, cmd.extractLsb' 8 8,
        0x43, cmd.extractLsb' 0 8, arg.extractLsb' 24 8, arg.extractLsb' 16 8,
        0x42, arg.extractLsb' 8 8, arg.extractLsb' 0 8]) }

/-- R117: ACK_BYTE returns 0x44, writes `result` only and leaves the block Idle. -/
def Obligations.AckByteReturnsItsConstant : Prop :=
  ∀ s : State, s.fault = none → s.ctl = .idle →
    exec .ackByte s = .next { s with result := some (.byte 0x44) }

/-- R200, R65, R118, R113: the host's own write of a command frame or of an ack byte goes out as R86 or R88 says and changes no
framer register, no byte of host memory and nothing else but the transport's side. -/
def Obligations.HostWritesChangeNoRegister : Prop :=
  (∀ (s : State) (cmd arg : BitVec 32), s.fault = none → s.ctl = .idle →
    ∃ t, exec (.cmdFrame cmd arg) s = .next t ∧ SameButWire s t ∧ t.readAnswers = s.readAnswers ∧
      t.calls = s.calls ++ [.hostWrite
        [0x43, cmd.extractLsb' 24 8, cmd.extractLsb' 16 8, cmd.extractLsb' 8 8,
          0x43, cmd.extractLsb' 0 8, arg.extractLsb' 24 8, arg.extractLsb' 16 8,
          0x42, arg.extractLsb' 8 8, arg.extractLsb' 0 8] (nextWriteAnswer s)]) ∧
  ∀ s : State, s.fault = none → s.ctl = .idle →
    ∃ t, exec .ack s = .next t ∧ SameButWire s t ∧ t.readAnswers = s.readAnswers ∧
      t.calls = s.calls ++ [.hostWrite [0x44] (nextWriteAnswer s)]

/-- R200, R65, R272: a bulk read of the host's own uses up the transport's answer and changes no framer register and no byte of
host memory (that its bytes go nowhere else is the model's choice, log 21). A result that the host had not yet taken is taken
first (R34, at the step of log 11). -/
def Obligations.HostReadChangesNoRegister : Prop :=
  ∀ (s : State) (rest : List HostAction), s.fault = none → s.ctl = .idle → s.hostQueue = .bulkRead :: rest →
    ∃ t, step s = .next t ∧ SameRegisters { s with result := none } t ∧ t.hostMem = s.hostMem ∧ t.hostQueue = rest ∧
      t.readAnswers = s.readAnswers.tail ∧ t.writeAnswers = s.writeAnswers ∧
      t.calls = s.calls ++ [.hostRead (nextReadAnswer s)]

/-! ## INIT and RECEIVE -/

/-- R131: INIT empties the session and changes neither `raw` nor `fault` nor `diag`. The values are the spec's own decision
D16; that `result` holds no value after it is R39 with log 11. -/
def Obligations.InitEmptiesTheSession : Prop :=
  ∀ s : State, s.fault = none → s.ctl = .idle →
    exec .init s = .next { s with consumed := 0, valid := 0, sessInit := true, result := none }

/-- R132 (1): RECEIVE before any INIT raises SessionUninitialised, checked before the region (R238), and changes no other
state (the spec's own decision D16). -/
def Obligations.ReceiveBeforeInitFaults : Prop :=
  ∀ (s : State) (req : Size) (out : OutRegion), s.fault = none → s.ctl = .idle → s.sessInit = false →
    exec (.receive req out) s = .next { s with fault := some .sessionUninitialised }

/-- R132 (2), R244: a region shorter than `req` is refused (the spec's own decision D30). -/
def Obligations.ReceiveRefusesAShortRegion : Prop :=
  ∀ (s : State) (req : Size) (out : OutRegion), s.fault = none → s.ctl = .idle → s.sessInit = true →
    out.len < req.toNat → exec (.receive req out) s = .refused .outRegionTooSmall

/-- R133, R262: an accepted RECEIVE starts in WaitingForSize with nothing written, by a physical read exactly when the session is
exhausted and otherwise at the carried-over bytes. It changes the transfer registers and the phase only. (Of `result`, which
holds no value of this operation yet, nothing is stated: log 11.) -/
def Obligations.ReceiveStartsATransfer : Prop :=
  ∀ (s : State) (req : Size) (out : OutRegion), s.fault = none → s.ctl = .idle → s.sessInit = true →
    req.toNat ≤ out.len → ∃ (t : State) (x : Transfer), exec (.receive req out) s = .next t ∧
      t.ctl = .busy (if s.valid ≤ s.consumed then .refill else .scan) x ∧
      { t with ctl := s.ctl, result := s.result } = s ∧
      x.req = req ∧ x.out = out ∧ x.tstate = .waitingForSize ∧ x.written = 0 ∧
      (s.valid ≤ s.consumed → x.tries = 0) ∧ (s.consumed < s.valid → x.p = s.consumed)

/-- R130, R143, R244: a host operation in a busy block, a group outside Scan and an ack where none is due have no move. The
first is the spec's; the other two say where the model has no move (log 19). -/
def Obligations.NoMoveOutsideItsPhase : Prop :=
  (∀ (s : State) (ph : OpPhase) (x : Transfer) (i : Instr), s.fault = none → s.ctl = .busy ph x →
    (i.channel = none ∨ ∃ cmd arg, i = .cmdFrame cmd arg) → exec i s = .refused .hostBlocked) ∧
  (∀ (s : State) (i : Instr), s.fault = none → (∀ x, s.ctl ≠ .busy .scan x) → isGroup i →
    exec i s = .refused .notScanning) ∧
  (∀ (s : State) (x : Transfer), s.fault = none → (s.ctl = .busy .refill x ∨ s.ctl = .busy .scan x) →
    exec .ack s = .refused .noAckDue)

/-! ## Groups -/

/-- R162: a matching SIZE_ANNOUNCE enters Receiving with nothing written and goes on to the next group; nothing else changes.
The comparison at 32 bits is the spec's own decision D12. -/
def Obligations.MatchingSizeStartsReceiving : Prop :=
  ∀ (s : State) (x : Transfer) (b1 : Byte) (len : BitVec 16), s.fault = none → s.ctl = .busy .scan x →
    x.tstate = .waitingForSize → len.toNat = x.req.toNat →
    exec (.sizeAnnounce b1 len) s = .next { s with
      ctl := .busy .scan { x with tstate := .receiving, written := 0, p := x.p + 4 } }

/-- R163, R164, R169, R170, R172, R173: an ignored group changes nothing but the cursor (and the trace): no register, no byte
of `raw`, no byte of host memory. -/
def Obligations.IgnoredGroupsOnlyAdvance : Prop :=
  ∀ (s : State) (x : Transfer) (i : Instr), s.fault = none → s.ctl = .busy .scan x → Ignored i x →
    ∃ t, exec i s = .next t ∧ SameButDiag t { s with ctl := .busy .scan { x with p := x.p + 4 } }

/-- R165 to R168: a DATA chunk that fits stores its payload bytes at `out[written .. written+n)` in arrival order, counts them,
and either goes on or, when `written` reaches `req`, waits for the completion ack with the cursor still on the group. No other
byte and no other register changes. -/
def Obligations.FittingChunkIsStored : Prop :=
  ∀ (s : State) (x : Transfer) (i : Instr) (bs : List Byte), s.fault = none → s.ctl = .busy .scan x →
    chunkOf i = some bs → x.tstate = .receiving → x.written + bs.length ≤ x.req.toNat →
    ∃ t, exec i s = .next t ∧
      t.ctl = (if x.written + bs.length = x.req.toNat then
          .busy .completeAck { x with written := x.written + bs.length, tstate := .waitingForEnd }
        else .busy .scan { x with written := x.written + bs.length, p := x.p + 4 }) ∧
      { t with ctl := s.ctl, hostMem := s.hostMem } = s ∧
      (∀ k, k < bs.length → t.hostMem.read (outAddr x.out (x.written + k)) = bs[k]?) ∧
      (∀ a, a < outAddr x.out x.written ∨ outAddr x.out x.written + bs.length ≤ a →
        t.hostMem.read a = s.hostMem.read a)

/-- R165, R147, R232: a DATA chunk that would pass `req` ends the RECEIVE with Overflow and `consumed` follows
ABORT_OFFSET_POLICY. No other register and no byte of host memory changes, but for the bytes from `written` to below `req`: R176
copies none of the chunk's bytes that would have fitted there, and the spec asks claims not to rest on that (U12, U13). -/
def Obligations.OverflowingChunkAborts : Prop :=
  ∀ (s : State) (x : Transfer) (i : Instr) (bs : List Byte), s.fault = none → s.ctl = .busy .scan x →
    chunkOf i = some bs → x.tstate = .receiving → x.req.toNat < x.written + bs.length →
    ∃ t, exec i s = .next t ∧ t.ctl = .idle ∧ t.result = some (.err .overflow) ∧
      t.consumed = policyOffset s x.p ∧
      { t with ctl := s.ctl, result := s.result, consumed := s.consumed, hostMem := s.hostMem } = s ∧
      (∀ a, a < outAddr x.out x.written ∨ outAddr x.out x.req.toNat ≤ a → t.hostMem.read a = s.hostMem.read a)

/-- R171, R145: END in WaitingForEnd records the position after its group and goes to the final ack; the bytes after it stay
buffered, and nothing else changes. -/
def Obligations.EndRecordsThePosition : Prop :=
  ∀ (s : State) (x : Transfer) (pad : BitVec 24), s.fault = none → s.ctl = .busy .scan x →
    x.tstate = .waitingForEnd →
    exec (.endMark pad) s = .next { s with consumed := x.p + 4, ctl := .busy .finalAck x }

/-- R174, R82 to R85: no dispatch depends on byte 1 of a SIZE_ANNOUNCE, on padding, on the bytes of END or on the bytes after an
unknown tag. -/
def Obligations.IgnoredBytesHaveNoEffect : Prop :=
  ∀ (s : State) (b b' d0 d1 t : Byte) (len : BitVec 16) (u u' : BitVec 16) (v v' : BitVec 24),
    exec (.sizeAnnounce b len) s = exec (.sizeAnnounce b' len) s ∧
    exec (.data1 d0 u) s = exec (.data1 d0 u') s ∧
    exec (.data2 d0 d1 b) s = exec (.data2 d0 d1 b') s ∧
    exec (.endMark v) s = exec (.endMark v') s ∧
    exec (.unknown t v) s = exec (.unknown t v') s

/-! ## Acks -/

/-- R139, R141, R147: the ack after a timeout. On success the same refill goes on with its count; on failure (the spec's own
decision D4) the RECEIVE ends with Transport(c) and the session is unchanged. -/
def Obligations.TimeoutAckGoesBackToRefill : Prop :=
  ∀ (s : State) (x : Transfer), s.fault = none → s.ctl = .busy .timeoutAck x →
    ∃ t, exec .ack s = .next t ∧ AckOnWire s t ∧
      (nextWriteAnswer s = .ok → SameButWire { s with ctl := .busy .refill x } t) ∧
      (∀ c, nextWriteAnswer s = .err c →
        SameButWire { s with ctl := .idle, result := some (.err (.transport c)) } t)

/-- R144, R141, R147: the completion ack. On success the scan goes on with the next group of the same buffer; on failure (the
spec's own decision D4) the RECEIVE ends with Transport(c) and `consumed` follows ABORT_OFFSET_POLICY. -/
def Obligations.CompletionAckGoesOnScanning : Prop :=
  ∀ (s : State) (x : Transfer), s.fault = none → s.ctl = .busy .completeAck x →
    ∃ t, exec .ack s = .next t ∧ AckOnWire s t ∧
      (nextWriteAnswer s = .ok → SameButWire { s with ctl := .busy .scan { x with p := x.p + 4 } } t) ∧
      (∀ c, nextWriteAnswer s = .err c →
        SameButWire { s with
          ctl := .idle, result := some (.err (.transport c)), consumed := policyOffset s x.p } t)

/-- R146, R141, R148: the final ack. On success the RECEIVE returns Ok(req); on failure (the spec's own decision D4) it returns
Transport(c). Either way the block is Idle and `consumed` keeps its value. -/
def Obligations.FinalAckReturns : Prop :=
  ∀ (s : State) (x : Transfer), s.fault = none → s.ctl = .busy .finalAck x →
    ∃ t, exec .ack s = .next t ∧ AckOnWire s t ∧
      (nextWriteAnswer s = .ok → SameButWire { s with ctl := .idle, result := some (.ok x.req) } t) ∧
      (∀ c, nextWriteAnswer s = .err c →
        SameButWire { s with ctl := .idle, result := some (.err (.transport c)) } t)

/-! ## The controller's own steps -/

/-- R135: a physical read of at most CAP bytes lands in `raw` from cell 0 in delivery order, later cells keep their content,
the session starts at 0 and ends after the bytes, and the scan starts at cell 0. -/
def Obligations.PhysicalReadFillsTheBuffer : Prop :=
  ∀ (s : State) (x : Transfer) (bytes : List Byte), s.fault = none → s.ctl = .busy .refill x →
    nextReadAnswer s = .ok bytes → bytes.length ≤ s.cfg.cap →
    ∃ t, step s = .next t ∧ ReadOnWire s t ∧
      SameButWire { s with raw := t.raw, consumed := 0, valid := bytes.length,
                           ctl := .busy .scan { x with p := 0 } } t ∧
      (∀ k, k < bytes.length → t.raw.read k = bytes[k]?) ∧
      (∀ k, bytes.length ≤ k → t.raw.read k = s.raw.read k)

/-- R136: a read of more than CAP bytes raises TransportOverrun; no register but `fault` changes (the spec's own decision
D11). -/
def Obligations.OverlongReadFaults : Prop :=
  ∀ (s : State) (x : Transfer) (bytes : List Byte), s.fault = none → s.ctl = .busy .refill x →
    nextReadAnswer s = .ok bytes → s.cfg.cap < bytes.length →
    ∃ t, step s = .next t ∧ ReadOnWire s t ∧ SameButWire { s with fault := some .transportOverrun } t

/-- R137, R147: a read timeout is counted; past the retry limit the RECEIVE ends with Timeout and the session unchanged, else an
ack is due. With no limit it never ends so (the spec's own decisions D7 and D21). -/
def Obligations.ReadTimeoutCountsAndAcks : Prop :=
  ∀ (s : State) (x : Transfer), s.fault = none → s.ctl = .busy .refill x → nextReadAnswer s = .timeout →
    ∃ t, step s = .next t ∧ ReadOnWire s t ∧
      ((∃ l, s.cfg.retryLimit = some l ∧ l < x.tries + 1) →
        SameButWire { s with ctl := .idle, result := some (.err .timeout) } t) ∧
      ((∀ l, s.cfg.retryLimit = some l → x.tries + 1 ≤ l) →
        SameButWire { s with ctl := .busy .timeoutAck { x with tries := x.tries + 1 } } t)

/-- R138, R147: a failed read ends the RECEIVE with the transport's code passed through and the session unchanged. -/
def Obligations.FailedReadAborts : Prop :=
  ∀ (s : State) (x : Transfer) (c : TransportCode), s.fault = none → s.ctl = .busy .refill x →
    nextReadAnswer s = .err c →
    ∃ t, step s = .next t ∧ ReadOnWire s t ∧
      SameButWire { s with ctl := .idle, result := some (.err (.transport c)) } t

/-- R140: at the end of a pass the buffer is exhausted and a physical read is due, with the timeout count at 0; nothing else
changes. -/
def Obligations.EndOfPassRefills : Prop :=
  ∀ (s : State) (x : Transfer), s.fault = none → s.ctl = .busy .scan x → s.valid ≤ x.p →
    step s = .next { s with consumed := s.valid, ctl := .busy .refill { x with tries := 0 } }

/-- R142: a buffer that ends inside a group raises PartialGroup, and nothing else changes (the spec's own decision D10). -/
def Obligations.PartialTrailingGroupFaults : Prop :=
  ∀ (s : State) (x : Transfer), s.fault = none → s.ctl = .busy .scan x → x.p < s.valid → s.valid < x.p + 4 →
    step s = .next { s with fault := some .partialGroup }

/-- R31, R243: while `fault` holds a kind the machine takes no step and accepts no operation (the spec's own decisions D10, D11
and D16). -/
def Obligations.FaultIsSticky : Prop :=
  ∀ (s : State) (k : FaultKind), s.fault = some k →
    step s = .fault (.halted k) ∧ ∀ i : Instr, exec i s = .fault (.halted k)

/-! ## A step runs the decoded instruction -/

/-- R143, R160: in Scan with a whole group at the cursor, the step is the decoded group's meaning. -/
def Obligations.StepRunsTheGroupAtTheCursor : Prop :=
  ∀ (s : State) (x : Transfer) (t b1 b2 b3 : Byte) (i : Instr), s.fault = none → s.ctl = .busy .scan x →
    x.p + 4 ≤ s.valid → s.raw.read x.p = some t → s.raw.read (x.p + 1) = some b1 →
    s.raw.read (x.p + 2) = some b2 → s.raw.read (x.p + 3) = some b3 →
    decode .fromDevice [t, b1, b2, b3] = .ok i → step s = exec i s

/-- R130, R200: in an Idle block the step is the meaning of what the host asks for next, with the request taken off its list and
the result of the operation that returned last taken by the host (R34; that it is taken at this step is the model's choice,
log 11). -/
def Obligations.StepRunsTheHostsRequest : Prop :=
  ∀ (s : State) (a : HostAction) (rest : List HostAction) (i : Instr), s.fault = none → s.ctl = .idle →
    s.hostQueue = a :: rest → requested a = some i →
    step s = exec i { s with hostQueue := rest, result := none }

/-- R139, R144, R146: in a phase where an ack is due, the step is the meaning of ACK. -/
def Obligations.StepWritesTheDueAck : Prop :=
  ∀ (s : State) (ph : OpPhase) (x : Transfer), s.fault = none → s.ctl = .busy ph x →
    (ph = .timeoutAck ∨ ph = .completeAck ∨ ph = .finalAck) → step s = exec .ack s

/-- R260: with no request the block waits in Idle and no register changes but `result`, which the host has taken (R34). That
waiting is a step of the machine, and that the result is taken at this step, are the model's choices (DESIGN CHOICE, log 2 and
log 11). -/
def Obligations.IdleWaits : Prop :=
  ∀ s : State, s.fault = none → s.ctl = .idle → s.hostQueue = [] → step s = .next { s with result := none }

/-! ## Reset and the invariant -/

/-- R260, R39: power-on. The values of `consumed` and `valid` are the model's choice (log 5) and are not stated. -/
def Obligations.ResetIsPowerOn : Prop :=
  State.reset.ctl = .idle ∧ State.reset.fault = none ∧ State.reset.sessInit = false ∧ State.reset.diag = [] ∧
    State.reset.result = none ∧ (∀ i, State.reset.raw.read i = none) ∧ State.reset.hostQueue = []

/-- The invariant of Safety.lean holds at reset. (Its clauses on `consumed` and `valid` hold there by the model's choice of 0,
log 5.) -/
def Obligations.ResetMeetsTheInvariant : Prop := State.reset.Inv

/-- R24, R29, R30, R33, R21: every step keeps the invariant, from every state that meets it. R24's multiple of 4 has the one
exception that the rules make (log 12). -/
def Obligations.StepKeepsTheInvariant : Prop :=
  ∀ s t : State, s.Inv → step s = .next t → t.Inv

/-- R24 and R147 as they are worded, "`consumed` is a multiple of 4 … Every rule of 41_receive.md preserves it": it FAILS. An
Overflow under Exhaust in a buffer that ends inside a later group leaves `consumed = valid`, no multiple of 4 (log 12). -/
def Obligations.ConsumedStaysAMultipleOfFour : Prop :=
  ∀ s t : State, s.Inv → s.consumed % 4 = 0 → step s = .next t → t.consumed % 4 = 0

/-! ## Rules of the whole machine -/

/-- R6: "None of it can be changed while the block runs": no step changes a parameter. -/
def Obligations.ConfigurationIsFixed : Prop :=
  ∀ s t : State, step s = .next t → t.cfg = s.cfg

/-- R52, R65: "Only a successful physical read writes `raw`", and no move of the host does. -/
def Obligations.OnlyAPhysicalReadWritesRaw : Prop :=
  ∀ s t : State, step s = .next t → t.raw ≠ s.raw →
    ∃ x bytes, s.ctl = .busy .refill x ∧ nextReadAnswer s = .ok bytes ∧ bytes.length ≤ s.cfg.cap ∧
      t.valid = bytes.length

/-- R22, R23, R26, R65: the framer alone owns its session. `sess_init` is written by INIT alone; `valid` by INIT and a successful physical read; `consumed` by those, by
the end of a pass, by done and by an abort from Scan or CompleteAck under ABORT_OFFSET_POLICY; and each with the listed value. -/
def Obligations.SessionIsWrittenOnlyAsListed : Prop :=
  ∀ s t : State, step s = .next t →
    (t.sessInit ≠ s.sessInit → t.sessInit = true ∧ s.ctl = .idle ∧ ∃ rest, s.hostQueue = .init :: rest) ∧
    (t.valid ≠ s.valid →
      (t.valid = 0 ∧ s.ctl = .idle ∧ ∃ rest, s.hostQueue = .init :: rest) ∨
      ∃ x bytes, s.ctl = .busy .refill x ∧ nextReadAnswer s = .ok bytes ∧ bytes.length ≤ s.cfg.cap ∧
        t.valid = bytes.length) ∧
    (t.consumed ≠ s.consumed →
      (t.consumed = 0 ∧ s.ctl = .idle ∧ ∃ rest, s.hostQueue = .init :: rest) ∨
      (t.consumed = 0 ∧ ∃ x bytes, s.ctl = .busy .refill x ∧ nextReadAnswer s = .ok bytes ∧
        bytes.length ≤ s.cfg.cap) ∨
      (∃ x, s.ctl = .busy .scan x ∧ s.valid ≤ x.p ∧ t.consumed = s.valid) ∨
      (∃ x, s.ctl = .busy .scan x ∧ x.tstate = .waitingForEnd ∧ t.ctl = .busy .finalAck x ∧ t.consumed = x.p + 4) ∨
      ∃ x e, (s.ctl = .busy .scan x ∨ s.ctl = .busy .completeAck x) ∧ t.ctl = .idle ∧ t.result = some (.err e) ∧
        t.consumed = policyOffset s x.p)

/-- R54, R55, R56, R165: a byte of host memory changes only in Scan and Receiving, by the DATA group at the cursor, and only at an
index of that group's payload from `written` on that lies below `req`. (Whether a chunk that would pass `req` stores the bytes
below it is left open here, as the spec asks, U12 and U13. That the host itself stores nothing is the model's choice, log 23.) -/
def Obligations.OutWritesStayBelowReq : Prop :=
  ∀ (s t : State) (a : Nat), step s = .next t → t.hostMem.read a ≠ s.hostMem.read a →
    ∃ (x : Transfer) (g : Sys2Proof.Group) (bs : List Byte), s.ctl = .busy .scan x ∧ x.tstate = .receiving ∧
      x.p + 4 ≤ s.valid ∧ readGroup s.raw x.p = some g ∧ chunkOf (decodeGroup g) = some bs ∧
      outAddr x.out x.written ≤ a ∧ a < outAddr x.out (min (x.written + bs.length) x.req.toNat)

/-- R56, R28, R35: inside one RECEIVE the operands stay, `written` never falls, and a byte changes only at an index from the old
`written` to below the new one, so the indices are written in rising order and each at most once. -/
def Obligations.OutIndicesRise : Prop :=
  ∀ (s t : State) (ph ph' : OpPhase) (x y : Transfer), s.Inv → s.ctl = .busy ph x → step s = .next t →
    t.ctl = .busy ph' y →
    y.req = x.req ∧ y.out = x.out ∧ x.written ≤ y.written ∧
      ∀ a, t.hostMem.read a ≠ s.hostMem.read a → outAddr x.out x.written ≤ a ∧ a < outAddr x.out y.written

/-- R148, R150, R237: a RECEIVE that returns returns Ok(req) through a successful final ack, or an error. -/
def Obligations.OkOnlyThroughTheFinalAck : Prop :=
  ∀ (s t : State) (ph : OpPhase) (x : Transfer), s.ctl = .busy ph x → step s = .next t → t.ctl = .idle →
    (t.result = some (.ok x.req) ∧ ph = .finalAck ∧ nextWriteAnswer s = .ok) ∨ ∃ e, t.result = some (.err e)

/-- R151: the framer makes a physical read only when the session is exhausted. -/
def Obligations.ReadsOnlyWhenExhausted : Prop :=
  ∀ (s t : State) (ep max tmo : Nat) (a : ReadAnswer), s.Inv → step s = .next t →
    t.calls = s.calls ++ [.framerRead ep max tmo a] →
    s.consumed = s.valid ∧ ep = s.cfg.epRecv ∧ max = s.cfg.cap ∧ ∃ x, s.ctl = .busy .refill x

/-- R5, R54, R60, R141: a step makes at most one transport call, and what the framer writes is one byte, 0x44, to SEND, in a
phase where an ack is due. -/
def Obligations.OneCallAStepAndOnlyAcks : Prop :=
  ∀ s t : State, step s = .next t →
    (t.calls = s.calls ∨ ∃ c, t.calls = s.calls ++ [c]) ∧
    ∀ (ep tmo : Nat) (bs : List Byte) (a : WriteAnswer), t.calls = s.calls ++ [.framerWrite ep bs tmo a] →
      ep = s.cfg.epSend ∧ bs = [0x44] ∧
        ∃ x, s.ctl = .busy .timeoutAck x ∨ s.ctl = .busy .completeAck x ∨ s.ctl = .busy .finalAck x

/-- R34: a result is handed over once. The only results a state after a step can hold are those that this very step returned: the
frame or the byte of the ENCODE or ACK_BYTE that it ran, or the Ok(req) or error of the RECEIVE that it ended, and the block is
Idle then; every other step leaves none. (That the host takes a result with the next step is the model's choice, log 11.) -/
def Obligations.ResultIsHandedOverOnce : Prop :=
  ∀ (s t : State) (r : Result), s.Inv → step s = .next t → t.result = some r →
    t.ctl = .idle ∧
      ((∃ cmd arg rest, s.ctl = .idle ∧ s.hostQueue = .encode cmd arg :: rest ∧ r = .frame (frameOf cmd arg)) ∨
        (∃ rest, s.ctl = .idle ∧ s.hostQueue = .ackByte :: rest ∧ r = .byte 0x44) ∨
        ∃ ph x, s.ctl = .busy ph x ∧ (r = .ok x.req ∨ ∃ e, r = .err e))

/-- R162, D13: a RECEIVE of 0 bytes never succeeds: a step of it stays in the RECEIVE or returns an error. -/
def Obligations.ZeroByteReceiveNeverSucceeds : Prop :=
  ∀ (s t : State) (ph : OpPhase) (x : Transfer), s.Inv → s.ctl = .busy ph x → x.req = 0 → step s = .next t →
    (∃ ph' y, t.ctl = .busy ph' y ∧ y.req = 0) ∨ (t.ctl = .idle ∧ ∃ e, t.result = some (.err e))

/-- R162, R268, D12: no announcement matches a `req` above 0xFFFF: a step of such a RECEIVE stays in WaitingForSize with nothing
written, or returns an error. -/
def Obligations.OversizeReceiveNeverMatches : Prop :=
  ∀ (s t : State) (ph : OpPhase) (x : Transfer), s.Inv → s.ctl = .busy ph x → 0xFFFF < x.req.toNat →
    x.tstate = .waitingForSize → step s = .next t →
    (∃ ph' y, t.ctl = .busy ph' y ∧ y.req = x.req ∧ y.tstate = .waitingForSize ∧ y.written = 0) ∨
      (t.ctl = .idle ∧ ∃ e, t.result = some (.err e))

/-- R21, R31, R244: from a state that meets the invariant no step reads an unwritten cell, and a step stops only because `fault` is
set, or on a region too small, or on a host write that is neither a frame nor an ack. This last stop is the model's own deduction
from R200 and R201 (DEDUCED, log 15), not one of R244's refusals. -/
def Obligations.StepsStopOnlyAsNamed : Prop :=
  ∀ s : State, s.Inv →
    (∀ f, step s = .fault f → ∃ k, s.fault = some k ∧ f = .halted k) ∧
    (∀ r, step s = .refused r → r = .outRegionTooSmall ∨ r = .hostWriteRejected)

/-! ## Reassembly -/

/-- R175, the reassembly law: if the steps of one RECEIVE end in Ok(n), then n is `req`, the payloads of the DATA groups accepted
on the way have `req` bytes together, `out[0 .. req)` holds their concatenation in order, and no other byte of host memory
changed. It holds for every behaviour of the transport, over any number of physical reads. -/
def Obligations.ReassemblyLaw : Prop :=
  ∀ (k : Nat) (s t : State) (ph : OpPhase) (x : Transfer) (n : Size), s.Inv → s.ctl = .busy ph x →
    x.tstate = .waitingForSize → insideReceive k s → Sys2Proof.core.run k s = .next t → t.ctl = .idle →
    t.result = some (.ok n) →
    n = x.req ∧ (collected k s).length = x.req.toNat ∧
      (∀ j, j < x.req.toNat → t.hostMem.read (outAddr x.out j) = (collected k s)[j]?) ∧
      (∀ a, ¬InRegion x.out x.req.toNat a → t.hostMem.read a = s.hostMem.read a)

/-- R175's testable property (S6): a RECEIVE that reads one matching SIZE_ANNOUNCE, DATA chunks summing to `req` bytes and END,
with both acks answered Ok, returns Ok(req) with `out[0 .. req)` the payloads in order, every byte of the buffer consumed and no
other byte of host memory changed. -/
def Obligations.WellFormedStreamIsReceived : Prop :=
  ∀ (s : State) (x : Transfer) (b1 : Byte) (len : BitVec 16) (pad : BitVec 24) (ds : List Instr)
    (reads : List ReadAnswer) (writes : List WriteAnswer),
    s.fault = none → s.ctl = .busy .refill x → x.tstate = .waitingForSize →
    len.toNat = x.req.toNat → x.req ≠ 0 → (∀ i ∈ ds, (chunkOf i).isSome) →
    (ds.flatMap fun i => (chunkOf i).getD []).length = x.req.toNat →
    4 * ds.length + 8 ≤ s.cfg.cap →
    s.readAnswers =
      .ok (encode (.sizeAnnounce b1 len) ++ ds.flatMap encode ++ encode (.endMark pad)) :: reads →
    s.writeAnswers = .ok :: .ok :: writes →
    ∃ t, Sys2Proof.core.run (ds.length + 5) s = .next t ∧ t.ctl = .idle ∧ t.fault = none ∧
      t.result = some (.ok x.req) ∧ t.consumed = 4 * ds.length + 8 ∧ t.valid = 4 * ds.length + 8 ∧
      t.readAnswers = reads ∧ t.writeAnswers = writes ∧
      (∀ j, j < x.req.toNat →
        t.hostMem.read (outAddr x.out j) = (ds.flatMap fun i => (chunkOf i).getD [])[j]?) ∧
      (∀ a, ¬InRegion x.out x.req.toNat a → t.hostMem.read a = s.hostMem.read a)

/-- R269: "every transfer that succeeds costs exactly two acks, plus one per read timeout", from the first step of a RECEIVE to
its return, for every behaviour of the transport. -/
def Obligations.SuccessCostsTwoAcks : Prop :=
  ∀ (k : Nat) (s t : State) (ph : OpPhase) (x : Transfer) (n : Size), s.Inv → s.ctl = .busy ph x →
    (ph = .refill ∨ ph = .scan) → x.tstate = .waitingForSize → insideReceive k s →
    Sys2Proof.core.run k s = .next t → t.ctl = .idle → t.result = some (.ok n) →
    acksWritten t + readTimeouts s = acksWritten s + 2 + readTimeouts t
end

