-- ==== Sys2Proof/Laws/Decode.lean ====
section
/-! SUPPORT. The laws of the byte order (spec/00_scope.md R8): joining the bytes of a value gives it back, and the bytes of a
joined value are those joined. -/

namespace Sys2Proof

/-! ## Join what was split -/

@[simp] theorem be16_byteOf (v : BitVec 16) : be16 (byteOf v 1) (byteOf v 0) = v := by
  apply BitVec.eq_of_getLsbD_eq
  intro i hi
  simp only [be16, byteOf, BitVec.getLsbD_append, BitVec.getLsbD_extractLsb']
  have : i - 8 < 8 := by omega
  by_cases h : i < 8
  · simp only [h, if_true, decide_true, Bool.true_and]
    congr 1; omega
  · simp only [h, this, if_false, decide_true, Bool.true_and]
    congr 1; omega

@[simp] theorem be24_byteOf (v : BitVec 24) : be24 (byteOf v 2) (byteOf v 1) (byteOf v 0) = v := by
  apply BitVec.eq_of_getLsbD_eq
  intro i hi
  simp only [be24, byteOf, BitVec.getLsbD_append, BitVec.getLsbD_extractLsb']
  have h3 : i - 8 - 8 < 8 := by omega
  by_cases h : i < 8
  · simp only [h, if_true, decide_true, Bool.true_and]
    congr 1; omega
  · by_cases h2 : i - 8 < 8
    · simp only [h, h2, if_true, if_false, decide_true, Bool.true_and]
      congr 1; omega
    · simp only [h, h2, h3, if_false, decide_true, Bool.true_and]
      congr 1; omega

@[simp] theorem be32_byteOf (v : BitVec 32) : be32 (byteOf v 3) (byteOf v 2) (byteOf v 1) (byteOf v 0) = v := by
  apply BitVec.eq_of_getLsbD_eq
  intro i hi
  simp only [be32, byteOf, BitVec.getLsbD_append, BitVec.getLsbD_extractLsb']
  have h4 : i - 8 - 8 - 8 < 8 := by omega
  by_cases h : i < 8
  · simp only [h, if_true, decide_true, Bool.true_and]
    congr 1; omega
  · by_cases h2 : i - 8 < 8
    · simp only [h, h2, if_true, if_false, decide_true, Bool.true_and]
      congr 1; omega
    · by_cases h3 : i - 8 - 8 < 8
      · simp only [h, h2, h3, if_true, if_false, decide_true, Bool.true_and]
        congr 1; omega
      · simp only [h, h2, h3, h4, if_false, decide_true, Bool.true_and]
        congr 1; omega

/-! ## Split what was joined -/

@[simp] theorem byteOf_self (b : Byte) : byteOf b 0 = b := by
  apply BitVec.eq_of_getLsbD_eq
  intro i h
  simp [byteOf, h]

@[simp] theorem byteOf_append_zero {w : Nat} (hi : BitVec w) (lo : Byte) : byteOf (hi ++ lo) 0 = lo := by
  apply BitVec.eq_of_getLsbD_eq
  intro i h
  simp [byteOf, BitVec.getLsbD_append, h]

@[simp] theorem byteOf_append_succ {w : Nat} (hi : BitVec w) (lo : Byte) (k : Nat) :
    byteOf (hi ++ lo) (k + 1) = byteOf hi k := by
  apply BitVec.eq_of_getLsbD_eq
  intro i h
  simp only [byteOf, BitVec.getLsbD_append, BitVec.getLsbD_extractLsb', h]
  rw [if_neg (by omega), show 8 * (k + 1) + i - 8 = 8 * k + i by omega]

end Sys2Proof
end

