-- ==== Sys2Proof/Laws/Memory.lean ====
section
/-! SUPPORT. The laws of memory: what a store changes, that nothing else changes, and that the canonical form is kept. -/

namespace Sys2Proof.Machine

/-! ## Runs of cells -/

theorem mem_cellsFrom {bs : List Byte} {base : Nat} {c : Host.Cell} (h : c ∈ cellsFrom base bs) :
    base ≤ c.1 ∧ c.1 < base + bs.length := by
  induction bs generalizing base with
  | nil => simp [cellsFrom] at h
  | cons b bs ih =>
    simp only [cellsFrom, List.mem_cons] at h
    rcases h with rfl | h
    · simp
    · have := ih h
      simp only [List.length_cons]
      omega

theorem cellsFrom_wf (bs : List Byte) (base : Nat) : Memory.wf (cellsFrom base bs) := by
  induction bs generalizing base with
  | nil => exact List.Pairwise.nil
  | cons b bs ih =>
    refine List.pairwise_cons.2 ⟨fun c hc => ?_, ih _⟩
    have := (mem_cellsFrom hc).1
    show base < c.1
    omega

theorem read_cellsFrom (bs : List Byte) (base a : Nat) :
    Memory.read (cellsFrom base bs) a = if base ≤ a then bs[a - base]? else none := by
  induction bs generalizing base with
  | nil => simp [cellsFrom, Memory.read]
  | cons b bs ih =>
    have ih := ih (base + 1)
    simp only [Memory.read] at ih
    simp only [cellsFrom, Memory.read, List.find?_cons]
    by_cases h : base = a
    · subst h; simp
    · have hne : (base == a) = false := by simpa using h
      simp only [hne, ih]
      by_cases h2 : base ≤ a
      · have e : a - base = (a - (base + 1)) + 1 := by omega
        rw [if_pos h2, if_pos (by omega), e, List.getElem?_cons_succ]
      · rw [if_neg h2, if_neg (by omega)]

/-! ## Block stores -/

theorem read_append (m n : Memory) (a : Nat) :
    Memory.read (m ++ n) a = (m.read a).or (n.read a) := by
  simp [Memory.read, List.find?_append, Option.map_or]

theorem read_filter (m : Memory) (q : Host.Cell → Bool) (a : Nat) (h : ∀ b, q (a, b) = true) :
    Memory.read (m.filter q) a = m.read a := by
  have e : (fun c : Host.Cell => decide (q c = true ∧ (c.1 == a) = true)) = fun c => c.1 == a := by
    funext ⟨k, b⟩
    by_cases hk : k = a
    · subst hk; simp [h b]
    · simp [hk]
  rw [Memory.read, List.find?_filter, e, Memory.read]

theorem read_filter_none (m : Memory) (q : Host.Cell → Bool) (a : Nat) (h : ∀ b, q (a, b) = false) :
    Memory.read (m.filter q) a = none := by
  simp only [Memory.read, Option.map_eq_none_iff, List.find?_eq_none, List.mem_filter]
  rintro ⟨k, b⟩ ⟨-, hq⟩ hk
  have hk : k = a := by simpa using hk
  subst hk
  simp [h b] at hq

/-- A read inside a stored block gives the stored byte; anywhere else it gives what it gave before. -/
theorem read_writeBlock (m : Memory) (base : Nat) (bs : List Byte) (a : Nat) :
    (m.writeBlock base bs).read a =
      if base ≤ a ∧ a < base + bs.length then bs[a - base]? else m.read a := by
  rw [Memory.writeBlock, read_append, read_append, read_cellsFrom]
  by_cases h1 : a < base
  · rw [read_filter _ _ _ (by simp [h1]), read_filter_none _ _ _ (by intro b; simp; omega),
      if_neg (by omega), if_neg (by omega)]
    simp
  · rw [read_filter_none _ _ _ (by simpa using h1), if_pos (by omega)]
    by_cases h2 : a < base + bs.length
    · rw [if_pos ⟨by omega, h2⟩]
      have hlt : a - base < bs.length := by omega
      simp [List.getElem?_eq_getElem hlt]
    · rw [read_filter _ _ _ (by intro b; simpa using h2), if_neg (by omega)]
      have hge : bs.length ≤ a - base := by omega
      simp [List.getElem?_eq_none hge]

theorem writeBlock_wf {m : Memory} (h : m.wf) (base : Nat) (bs : List Byte) : (m.writeBlock base bs).wf := by
  refine List.pairwise_append.2 ⟨List.pairwise_append.2 ⟨h.filter _, cellsFrom_wf _ _, ?_⟩, h.filter _, ?_⟩
  · intro a ha b hb
    have h1 : a.1 < base := by simpa using (List.mem_filter.1 ha).2
    have h2 := (mem_cellsFrom hb).1
    omega
  · intro a ha b hb
    have h2 : base + bs.length ≤ b.1 := by simpa using (List.mem_filter.1 hb).2
    rcases List.mem_append.1 ha with ha | ha
    · have h1 : a.1 < base := by simpa using (List.mem_filter.1 ha).2
      omega
    · have h1 := (mem_cellsFrom ha).2
      omega

theorem mem_writeBlock {m : Memory} {base : Nat} {bs : List Byte} {c : Host.Cell} (h : c ∈ m.writeBlock base bs) :
    c ∈ m ∨ (base ≤ c.1 ∧ c.1 < base + bs.length) := by
  rcases List.mem_append.1 h with h | h
  · rcases List.mem_append.1 h with h | h
    · exact .inl (List.mem_filter.1 h).1
    · exact .inr (mem_cellsFrom h)
  · exact .inl (List.mem_filter.1 h).1

/-! ## Single stores and output writes -/

theorem read_write (m : Memory) (a : Nat) (b : Byte) (k : Nat) :
    (m.write a b).read k = if k = a then some b else m.read k := by
  rw [Memory.write, read_writeBlock]
  by_cases h : k = a
  · subst h; simp
  · rw [if_neg h, if_neg (by simp only [List.length_singleton]; omega)]

theorem write_wf {m : Memory} (h : m.wf) (a : Nat) (b : Byte) : (m.write a b).wf := writeBlock_wf h a [b]

theorem outWrites_wf {m : Memory} (h : m.wf) (out : OutRegion) (i : Nat) (bs : List Byte) :
    (outWrites m out i bs).wf := by
  induction bs generalizing m i with
  | nil => exact h
  | cons b bs ih => exact ih (write_wf h _ _) _

/-- The bytes a chunk stores are those of its payload, in order from index `i` of the region; no other byte changes. -/
theorem read_outWrites (m : Memory) (out : OutRegion) (i : Nat) (bs : List Byte) (a : Nat) :
    (outWrites m out i bs).read a =
      if outAddr out i ≤ a ∧ a < outAddr out i + bs.length then bs[a - outAddr out i]? else m.read a := by
  induction bs generalizing m i with
  | nil =>
    rw [if_neg (by simp only [List.length_nil]; omega)]
    rfl
  | cons b bs ih =>
    rw [outWrites, ih, outWrite, read_write]
    simp only [outAddr, List.length_cons]
    by_cases h0 : a = out.base + i
    · subst h0
      rw [if_neg (by omega), if_pos rfl, if_pos (by omega)]
      simp
    · by_cases h1 : out.base + (i + 1) ≤ a ∧ a < out.base + (i + 1) + bs.length
      · have e : a - (out.base + i) = (a - (out.base + (i + 1))) + 1 := by omega
        rw [if_pos h1, if_pos (by omega), e, List.getElem?_cons_succ]
      · rw [if_neg h1, if_neg h0, if_neg (by omega)]

/-! ## Reading a group -/

theorem readGroup_eq_some {m : Memory} {p : Nat} {g : Group} :
    readGroup m p = some g ↔
      m.read p = some g.t ∧ m.read (p + 1) = some g.b1 ∧ m.read (p + 2) = some g.b2 ∧ m.read (p + 3) = some g.b3 := by
  obtain ⟨t, b1, b2, b3⟩ := g
  unfold readGroup
  split
  · next h0 h1 h2 h3 => simp [h0, h1, h2, h3]
  · next h =>
    simp only [reduceCtorEq, false_iff]
    rintro ⟨h0, h1, h2, h3⟩
    exact h _ _ _ _ h0 h1 h2 h3

theorem readGroup_isSome {m : Memory} {p : Nat} (h : ∀ i, i < p + 4 → (m.read i).isSome) :
    ∃ g, readGroup m p = some g := by
  obtain ⟨t, ht⟩ := Option.isSome_iff_exists.1 (h p (by omega))
  obtain ⟨b1, h1⟩ := Option.isSome_iff_exists.1 (h (p + 1) (by omega))
  obtain ⟨b2, h2⟩ := Option.isSome_iff_exists.1 (h (p + 2) (by omega))
  obtain ⟨b3, h3⟩ := Option.isSome_iff_exists.1 (h (p + 3) (by omega))
  exact ⟨⟨t, b1, b2, b3⟩, readGroup_eq_some.2 ⟨ht, h1, h2, h3⟩⟩

end Sys2Proof.Machine
end

