-- ==== Sys2Proof/Laws/State.lean ====
section
/-! SUPPORT. One lemma per field of State per named update, so that no proof unfolds a record update. -/

namespace Sys2Proof.Machine

variable (s : State)

/-! ## handOver -/

@[simp] theorem handOver_cfg : s.handOver.cfg = s.cfg := rfl
@[simp] theorem handOver_raw : s.handOver.raw = s.raw := rfl
@[simp] theorem handOver_consumed : s.handOver.consumed = s.consumed := rfl
@[simp] theorem handOver_valid : s.handOver.valid = s.valid := rfl
@[simp] theorem handOver_sessInit : s.handOver.sessInit = s.sessInit := rfl
@[simp] theorem handOver_ctl : s.handOver.ctl = s.ctl := rfl
@[simp] theorem handOver_fault : s.handOver.fault = s.fault := rfl
@[simp] theorem handOver_result : s.handOver.result = none := rfl
@[simp] theorem handOver_diag : s.handOver.diag = s.diag := rfl
@[simp] theorem handOver_hostMem : s.handOver.hostMem = s.hostMem := rfl
@[simp] theorem handOver_hostQueue : s.handOver.hostQueue = s.hostQueue := rfl
@[simp] theorem handOver_readAnswers : s.handOver.readAnswers = s.readAnswers := rfl
@[simp] theorem handOver_writeAnswers : s.handOver.writeAnswers = s.writeAnswers := rfl
@[simp] theorem handOver_calls : s.handOver.calls = s.calls := rfl
@[simp] theorem handOver_draws : s.handOver.draws = s.draws := rfl

/-! ## emit -/

@[simp] theorem emit_cfg (k : DiagKind) (p v : Nat) : (s.emit k p v).cfg = s.cfg := rfl
@[simp] theorem emit_raw (k : DiagKind) (p v : Nat) : (s.emit k p v).raw = s.raw := rfl
@[simp] theorem emit_consumed (k : DiagKind) (p v : Nat) : (s.emit k p v).consumed = s.consumed := rfl
@[simp] theorem emit_valid (k : DiagKind) (p v : Nat) : (s.emit k p v).valid = s.valid := rfl
@[simp] theorem emit_sessInit (k : DiagKind) (p v : Nat) : (s.emit k p v).sessInit = s.sessInit := rfl
@[simp] theorem emit_ctl (k : DiagKind) (p v : Nat) : (s.emit k p v).ctl = s.ctl := rfl
@[simp] theorem emit_fault (k : DiagKind) (p v : Nat) : (s.emit k p v).fault = s.fault := rfl
@[simp] theorem emit_result (k : DiagKind) (p v : Nat) : (s.emit k p v).result = s.result := rfl
@[simp] theorem emit_diag (k : DiagKind) (p v : Nat) : (s.emit k p v).diag = s.diag ++ [⟨k, p, v⟩] := rfl
@[simp] theorem emit_hostMem (k : DiagKind) (p v : Nat) : (s.emit k p v).hostMem = s.hostMem := rfl
@[simp] theorem emit_hostQueue (k : DiagKind) (p v : Nat) : (s.emit k p v).hostQueue = s.hostQueue := rfl
@[simp] theorem emit_readAnswers (k : DiagKind) (p v : Nat) : (s.emit k p v).readAnswers = s.readAnswers := rfl
@[simp] theorem emit_writeAnswers (k : DiagKind) (p v : Nat) : (s.emit k p v).writeAnswers = s.writeAnswers := rfl
@[simp] theorem emit_calls (k : DiagKind) (p v : Nat) : (s.emit k p v).calls = s.calls := rfl
@[simp] theorem emit_draws (k : DiagKind) (p v : Nat) : (s.emit k p v).draws = s.draws := rfl

/-! ## goTo -/

@[simp] theorem goTo_cfg (ph : OpPhase) (x : Transfer) : (s.goTo ph x).cfg = s.cfg := rfl
@[simp] theorem goTo_raw (ph : OpPhase) (x : Transfer) : (s.goTo ph x).raw = s.raw := rfl
@[simp] theorem goTo_consumed (ph : OpPhase) (x : Transfer) : (s.goTo ph x).consumed = s.consumed := rfl
@[simp] theorem goTo_valid (ph : OpPhase) (x : Transfer) : (s.goTo ph x).valid = s.valid := rfl
@[simp] theorem goTo_sessInit (ph : OpPhase) (x : Transfer) : (s.goTo ph x).sessInit = s.sessInit := rfl
@[simp] theorem goTo_ctl (ph : OpPhase) (x : Transfer) : (s.goTo ph x).ctl = .busy ph x := rfl
@[simp] theorem goTo_fault (ph : OpPhase) (x : Transfer) : (s.goTo ph x).fault = s.fault := rfl
@[simp] theorem goTo_result (ph : OpPhase) (x : Transfer) : (s.goTo ph x).result = s.result := rfl
@[simp] theorem goTo_diag (ph : OpPhase) (x : Transfer) : (s.goTo ph x).diag = s.diag := rfl
@[simp] theorem goTo_hostMem (ph : OpPhase) (x : Transfer) : (s.goTo ph x).hostMem = s.hostMem := rfl
@[simp] theorem goTo_hostQueue (ph : OpPhase) (x : Transfer) : (s.goTo ph x).hostQueue = s.hostQueue := rfl
@[simp] theorem goTo_readAnswers (ph : OpPhase) (x : Transfer) : (s.goTo ph x).readAnswers = s.readAnswers := rfl
@[simp] theorem goTo_writeAnswers (ph : OpPhase) (x : Transfer) : (s.goTo ph x).writeAnswers = s.writeAnswers := rfl
@[simp] theorem goTo_calls (ph : OpPhase) (x : Transfer) : (s.goTo ph x).calls = s.calls := rfl
@[simp] theorem goTo_draws (ph : OpPhase) (x : Transfer) : (s.goTo ph x).draws = s.draws := rfl

/-! ## returnWith -/

@[simp] theorem returnWith_cfg (r : Result) : (s.returnWith r).cfg = s.cfg := rfl
@[simp] theorem returnWith_raw (r : Result) : (s.returnWith r).raw = s.raw := rfl
@[simp] theorem returnWith_consumed (r : Result) : (s.returnWith r).consumed = s.consumed := rfl
@[simp] theorem returnWith_valid (r : Result) : (s.returnWith r).valid = s.valid := rfl
@[simp] theorem returnWith_sessInit (r : Result) : (s.returnWith r).sessInit = s.sessInit := rfl
@[simp] theorem returnWith_ctl (r : Result) : (s.returnWith r).ctl = .idle := rfl
@[simp] theorem returnWith_fault (r : Result) : (s.returnWith r).fault = s.fault := rfl
@[simp] theorem returnWith_result (r : Result) : (s.returnWith r).result = some r := rfl
@[simp] theorem returnWith_diag (r : Result) : (s.returnWith r).diag = s.diag := rfl
@[simp] theorem returnWith_hostMem (r : Result) : (s.returnWith r).hostMem = s.hostMem := rfl
@[simp] theorem returnWith_hostQueue (r : Result) : (s.returnWith r).hostQueue = s.hostQueue := rfl
@[simp] theorem returnWith_readAnswers (r : Result) : (s.returnWith r).readAnswers = s.readAnswers := rfl
@[simp] theorem returnWith_writeAnswers (r : Result) : (s.returnWith r).writeAnswers = s.writeAnswers := rfl
@[simp] theorem returnWith_calls (r : Result) : (s.returnWith r).calls = s.calls := rfl
@[simp] theorem returnWith_draws (r : Result) : (s.returnWith r).draws = s.draws := rfl

/-! ## raiseFault -/

@[simp] theorem raiseFault_cfg (k : FaultKind) : (s.raiseFault k).cfg = s.cfg := rfl
@[simp] theorem raiseFault_raw (k : FaultKind) : (s.raiseFault k).raw = s.raw := rfl
@[simp] theorem raiseFault_consumed (k : FaultKind) : (s.raiseFault k).consumed = s.consumed := rfl
@[simp] theorem raiseFault_valid (k : FaultKind) : (s.raiseFault k).valid = s.valid := rfl
@[simp] theorem raiseFault_sessInit (k : FaultKind) : (s.raiseFault k).sessInit = s.sessInit := rfl
@[simp] theorem raiseFault_ctl (k : FaultKind) : (s.raiseFault k).ctl = s.ctl := rfl
@[simp] theorem raiseFault_fault (k : FaultKind) : (s.raiseFault k).fault = some (s.fault.getD k) := rfl
@[simp] theorem raiseFault_result (k : FaultKind) : (s.raiseFault k).result = s.result := rfl
@[simp] theorem raiseFault_diag (k : FaultKind) : (s.raiseFault k).diag = s.diag := rfl
@[simp] theorem raiseFault_hostMem (k : FaultKind) : (s.raiseFault k).hostMem = s.hostMem := rfl
@[simp] theorem raiseFault_hostQueue (k : FaultKind) : (s.raiseFault k).hostQueue = s.hostQueue := rfl
@[simp] theorem raiseFault_readAnswers (k : FaultKind) : (s.raiseFault k).readAnswers = s.readAnswers := rfl
@[simp] theorem raiseFault_writeAnswers (k : FaultKind) : (s.raiseFault k).writeAnswers = s.writeAnswers := rfl
@[simp] theorem raiseFault_calls (k : FaultKind) : (s.raiseFault k).calls = s.calls := rfl
@[simp] theorem raiseFault_draws (k : FaultKind) : (s.raiseFault k).draws = s.draws := rfl

/-! ## abort -/

@[simp] theorem abort_cfg (ph : OpPhase) (x : Transfer) (e : RxError) : (s.abort ph x e).cfg = s.cfg := rfl
@[simp] theorem abort_raw (ph : OpPhase) (x : Transfer) (e : RxError) : (s.abort ph x e).raw = s.raw := rfl
@[simp] theorem abort_consumed (ph : OpPhase) (x : Transfer) (e : RxError) : (s.abort ph x e).consumed = abortOffset s ph x := rfl
@[simp] theorem abort_valid (ph : OpPhase) (x : Transfer) (e : RxError) : (s.abort ph x e).valid = s.valid := rfl
@[simp] theorem abort_sessInit (ph : OpPhase) (x : Transfer) (e : RxError) : (s.abort ph x e).sessInit = s.sessInit := rfl
@[simp] theorem abort_ctl (ph : OpPhase) (x : Transfer) (e : RxError) : (s.abort ph x e).ctl = .idle := rfl
@[simp] theorem abort_fault (ph : OpPhase) (x : Transfer) (e : RxError) : (s.abort ph x e).fault = s.fault := rfl
@[simp] theorem abort_result (ph : OpPhase) (x : Transfer) (e : RxError) : (s.abort ph x e).result = some (.err e) := rfl
@[simp] theorem abort_diag (ph : OpPhase) (x : Transfer) (e : RxError) : (s.abort ph x e).diag = s.diag := rfl
@[simp] theorem abort_hostMem (ph : OpPhase) (x : Transfer) (e : RxError) : (s.abort ph x e).hostMem = s.hostMem := rfl
@[simp] theorem abort_hostQueue (ph : OpPhase) (x : Transfer) (e : RxError) : (s.abort ph x e).hostQueue = s.hostQueue := rfl
@[simp] theorem abort_readAnswers (ph : OpPhase) (x : Transfer) (e : RxError) : (s.abort ph x e).readAnswers = s.readAnswers := rfl
@[simp] theorem abort_writeAnswers (ph : OpPhase) (x : Transfer) (e : RxError) : (s.abort ph x e).writeAnswers = s.writeAnswers := rfl
@[simp] theorem abort_calls (ph : OpPhase) (x : Transfer) (e : RxError) : (s.abort ph x e).calls = s.calls := rfl
@[simp] theorem abort_draws (ph : OpPhase) (x : Transfer) (e : RxError) : (s.abort ph x e).draws = s.draws := rfl

/-! ## afterRead -/

@[simp] theorem afterRead_cfg (c : TransportCall) : (s.afterRead c).cfg = s.cfg := rfl
@[simp] theorem afterRead_raw (c : TransportCall) : (s.afterRead c).raw = s.raw := rfl
@[simp] theorem afterRead_consumed (c : TransportCall) : (s.afterRead c).consumed = s.consumed := rfl
@[simp] theorem afterRead_valid (c : TransportCall) : (s.afterRead c).valid = s.valid := rfl
@[simp] theorem afterRead_sessInit (c : TransportCall) : (s.afterRead c).sessInit = s.sessInit := rfl
@[simp] theorem afterRead_ctl (c : TransportCall) : (s.afterRead c).ctl = s.ctl := rfl
@[simp] theorem afterRead_fault (c : TransportCall) : (s.afterRead c).fault = s.fault := rfl
@[simp] theorem afterRead_result (c : TransportCall) : (s.afterRead c).result = s.result := rfl
@[simp] theorem afterRead_diag (c : TransportCall) : (s.afterRead c).diag = s.diag := rfl
@[simp] theorem afterRead_hostMem (c : TransportCall) : (s.afterRead c).hostMem = s.hostMem := rfl
@[simp] theorem afterRead_hostQueue (c : TransportCall) : (s.afterRead c).hostQueue = s.hostQueue := rfl
@[simp] theorem afterRead_readAnswers (c : TransportCall) : (s.afterRead c).readAnswers = s.readAnswers.tail := rfl
@[simp] theorem afterRead_writeAnswers (c : TransportCall) : (s.afterRead c).writeAnswers = s.writeAnswers := rfl
@[simp] theorem afterRead_calls (c : TransportCall) : (s.afterRead c).calls = s.calls ++ [c] := rfl
@[simp] theorem afterRead_draws (c : TransportCall) : (s.afterRead c).draws = if s.readAnswers.isEmpty then s.draws + 1 else s.draws := rfl

/-! ## afterWrite -/

@[simp] theorem afterWrite_cfg (c : TransportCall) : (s.afterWrite c).cfg = s.cfg := rfl
@[simp] theorem afterWrite_raw (c : TransportCall) : (s.afterWrite c).raw = s.raw := rfl
@[simp] theorem afterWrite_consumed (c : TransportCall) : (s.afterWrite c).consumed = s.consumed := rfl
@[simp] theorem afterWrite_valid (c : TransportCall) : (s.afterWrite c).valid = s.valid := rfl
@[simp] theorem afterWrite_sessInit (c : TransportCall) : (s.afterWrite c).sessInit = s.sessInit := rfl
@[simp] theorem afterWrite_ctl (c : TransportCall) : (s.afterWrite c).ctl = s.ctl := rfl
@[simp] theorem afterWrite_fault (c : TransportCall) : (s.afterWrite c).fault = s.fault := rfl
@[simp] theorem afterWrite_result (c : TransportCall) : (s.afterWrite c).result = s.result := rfl
@[simp] theorem afterWrite_diag (c : TransportCall) : (s.afterWrite c).diag = s.diag := rfl
@[simp] theorem afterWrite_hostMem (c : TransportCall) : (s.afterWrite c).hostMem = s.hostMem := rfl
@[simp] theorem afterWrite_hostQueue (c : TransportCall) : (s.afterWrite c).hostQueue = s.hostQueue := rfl
@[simp] theorem afterWrite_readAnswers (c : TransportCall) : (s.afterWrite c).readAnswers = s.readAnswers := rfl
@[simp] theorem afterWrite_writeAnswers (c : TransportCall) : (s.afterWrite c).writeAnswers = s.writeAnswers.tail := rfl
@[simp] theorem afterWrite_calls (c : TransportCall) : (s.afterWrite c).calls = s.calls ++ [c] := rfl
@[simp] theorem afterWrite_draws (c : TransportCall) : (s.afterWrite c).draws = if s.writeAnswers.isEmpty then s.draws + 1 else s.draws := rfl

/-! ## physicalRead -/

@[simp] theorem physicalRead_cfg : s.physicalRead.cfg = s.cfg := rfl
@[simp] theorem physicalRead_raw : s.physicalRead.raw = s.raw := rfl
@[simp] theorem physicalRead_consumed : s.physicalRead.consumed = s.consumed := rfl
@[simp] theorem physicalRead_valid : s.physicalRead.valid = s.valid := rfl
@[simp] theorem physicalRead_sessInit : s.physicalRead.sessInit = s.sessInit := rfl
@[simp] theorem physicalRead_ctl : s.physicalRead.ctl = s.ctl := rfl
@[simp] theorem physicalRead_fault : s.physicalRead.fault = s.fault := rfl
@[simp] theorem physicalRead_result : s.physicalRead.result = s.result := rfl
@[simp] theorem physicalRead_diag : s.physicalRead.diag = s.diag := rfl
@[simp] theorem physicalRead_hostMem : s.physicalRead.hostMem = s.hostMem := rfl
@[simp] theorem physicalRead_hostQueue : s.physicalRead.hostQueue = s.hostQueue := rfl
@[simp] theorem physicalRead_readAnswers : s.physicalRead.readAnswers = s.readAnswers.tail := rfl
@[simp] theorem physicalRead_writeAnswers : s.physicalRead.writeAnswers = s.writeAnswers := rfl
@[simp] theorem physicalRead_calls : s.physicalRead.calls = s.calls ++ [.framerRead s.cfg.epRecv s.cfg.cap s.cfg.readTimeout (nextReadAnswer s)] := rfl
@[simp] theorem physicalRead_draws : s.physicalRead.draws = if s.readAnswers.isEmpty then s.draws + 1 else s.draws := rfl

/-! ## ackWrite -/

@[simp] theorem ackWrite_cfg : s.ackWrite.cfg = s.cfg := rfl
@[simp] theorem ackWrite_raw : s.ackWrite.raw = s.raw := rfl
@[simp] theorem ackWrite_consumed : s.ackWrite.consumed = s.consumed := rfl
@[simp] theorem ackWrite_valid : s.ackWrite.valid = s.valid := rfl
@[simp] theorem ackWrite_sessInit : s.ackWrite.sessInit = s.sessInit := rfl
@[simp] theorem ackWrite_ctl : s.ackWrite.ctl = s.ctl := rfl
@[simp] theorem ackWrite_fault : s.ackWrite.fault = s.fault := rfl
@[simp] theorem ackWrite_result : s.ackWrite.result = s.result := rfl
@[simp] theorem ackWrite_diag : s.ackWrite.diag = s.diag := rfl
@[simp] theorem ackWrite_hostMem : s.ackWrite.hostMem = s.hostMem := rfl
@[simp] theorem ackWrite_hostQueue : s.ackWrite.hostQueue = s.hostQueue := rfl
@[simp] theorem ackWrite_readAnswers : s.ackWrite.readAnswers = s.readAnswers := rfl
@[simp] theorem ackWrite_writeAnswers : s.ackWrite.writeAnswers = s.writeAnswers.tail := rfl
@[simp] theorem ackWrite_calls : s.ackWrite.calls = s.calls ++ [.framerWrite s.cfg.epSend [ackValue] s.cfg.writeTimeout (nextWriteAnswer s)] := rfl
@[simp] theorem ackWrite_draws : s.ackWrite.draws = if s.writeAnswers.isEmpty then s.draws + 1 else s.draws := rfl

/-! ## hostWrites -/

@[simp] theorem hostWrites_cfg (bs : List Byte) : (s.hostWrites bs).cfg = s.cfg := rfl
@[simp] theorem hostWrites_raw (bs : List Byte) : (s.hostWrites bs).raw = s.raw := rfl
@[simp] theorem hostWrites_consumed (bs : List Byte) : (s.hostWrites bs).consumed = s.consumed := rfl
@[simp] theorem hostWrites_valid (bs : List Byte) : (s.hostWrites bs).valid = s.valid := rfl
@[simp] theorem hostWrites_sessInit (bs : List Byte) : (s.hostWrites bs).sessInit = s.sessInit := rfl
@[simp] theorem hostWrites_ctl (bs : List Byte) : (s.hostWrites bs).ctl = s.ctl := rfl
@[simp] theorem hostWrites_fault (bs : List Byte) : (s.hostWrites bs).fault = s.fault := rfl
@[simp] theorem hostWrites_result (bs : List Byte) : (s.hostWrites bs).result = s.result := rfl
@[simp] theorem hostWrites_diag (bs : List Byte) : (s.hostWrites bs).diag = s.diag := rfl
@[simp] theorem hostWrites_hostMem (bs : List Byte) : (s.hostWrites bs).hostMem = s.hostMem := rfl
@[simp] theorem hostWrites_hostQueue (bs : List Byte) : (s.hostWrites bs).hostQueue = s.hostQueue := rfl
@[simp] theorem hostWrites_readAnswers (bs : List Byte) : (s.hostWrites bs).readAnswers = s.readAnswers := rfl
@[simp] theorem hostWrites_writeAnswers (bs : List Byte) : (s.hostWrites bs).writeAnswers = s.writeAnswers.tail := rfl
@[simp] theorem hostWrites_calls (bs : List Byte) : (s.hostWrites bs).calls = s.calls ++ [.hostWrite bs (nextWriteAnswer s)] := rfl
@[simp] theorem hostWrites_draws (bs : List Byte) : (s.hostWrites bs).draws = if s.writeAnswers.isEmpty then s.draws + 1 else s.draws := rfl

/-! ## hostReads -/

@[simp] theorem hostReads_cfg : s.hostReads.cfg = s.cfg := rfl
@[simp] theorem hostReads_raw : s.hostReads.raw = s.raw := rfl
@[simp] theorem hostReads_consumed : s.hostReads.consumed = s.consumed := rfl
@[simp] theorem hostReads_valid : s.hostReads.valid = s.valid := rfl
@[simp] theorem hostReads_sessInit : s.hostReads.sessInit = s.sessInit := rfl
@[simp] theorem hostReads_ctl : s.hostReads.ctl = s.ctl := rfl
@[simp] theorem hostReads_fault : s.hostReads.fault = s.fault := rfl
@[simp] theorem hostReads_result : s.hostReads.result = s.result := rfl
@[simp] theorem hostReads_diag : s.hostReads.diag = s.diag := rfl
@[simp] theorem hostReads_hostMem : s.hostReads.hostMem = s.hostMem := rfl
@[simp] theorem hostReads_hostQueue : s.hostReads.hostQueue = s.hostQueue := rfl
@[simp] theorem hostReads_readAnswers : s.hostReads.readAnswers = s.readAnswers.tail := rfl
@[simp] theorem hostReads_writeAnswers : s.hostReads.writeAnswers = s.writeAnswers := rfl
@[simp] theorem hostReads_calls : s.hostReads.calls = s.calls ++ [.hostRead (nextReadAnswer s)] := rfl
@[simp] theorem hostReads_draws : s.hostReads.draws = if s.readAnswers.isEmpty then s.draws + 1 else s.draws := rfl

/-! ## nextGroup -/

@[simp] theorem nextGroup_cfg (x : Transfer) : (s.nextGroup x).cfg = s.cfg := rfl
@[simp] theorem nextGroup_raw (x : Transfer) : (s.nextGroup x).raw = s.raw := rfl
@[simp] theorem nextGroup_consumed (x : Transfer) : (s.nextGroup x).consumed = s.consumed := rfl
@[simp] theorem nextGroup_valid (x : Transfer) : (s.nextGroup x).valid = s.valid := rfl
@[simp] theorem nextGroup_sessInit (x : Transfer) : (s.nextGroup x).sessInit = s.sessInit := rfl
@[simp] theorem nextGroup_ctl (x : Transfer) : (s.nextGroup x).ctl = .busy .scan { x with p := x.p + 4 } := rfl
@[simp] theorem nextGroup_fault (x : Transfer) : (s.nextGroup x).fault = s.fault := rfl
@[simp] theorem nextGroup_result (x : Transfer) : (s.nextGroup x).result = s.result := rfl
@[simp] theorem nextGroup_diag (x : Transfer) : (s.nextGroup x).diag = s.diag := rfl
@[simp] theorem nextGroup_hostMem (x : Transfer) : (s.nextGroup x).hostMem = s.hostMem := rfl
@[simp] theorem nextGroup_hostQueue (x : Transfer) : (s.nextGroup x).hostQueue = s.hostQueue := rfl
@[simp] theorem nextGroup_readAnswers (x : Transfer) : (s.nextGroup x).readAnswers = s.readAnswers := rfl
@[simp] theorem nextGroup_writeAnswers (x : Transfer) : (s.nextGroup x).writeAnswers = s.writeAnswers := rfl
@[simp] theorem nextGroup_calls (x : Transfer) : (s.nextGroup x).calls = s.calls := rfl
@[simp] theorem nextGroup_draws (x : Transfer) : (s.nextGroup x).draws = s.draws := rfl

/-! ## ackThenNext -/

@[simp] theorem ackThenNext_cfg (x : Transfer) : (s.ackThenNext x).cfg = s.cfg := rfl
@[simp] theorem ackThenNext_raw (x : Transfer) : (s.ackThenNext x).raw = s.raw := rfl
@[simp] theorem ackThenNext_consumed (x : Transfer) : (s.ackThenNext x).consumed = s.consumed := rfl
@[simp] theorem ackThenNext_valid (x : Transfer) : (s.ackThenNext x).valid = s.valid := rfl
@[simp] theorem ackThenNext_sessInit (x : Transfer) : (s.ackThenNext x).sessInit = s.sessInit := rfl
@[simp] theorem ackThenNext_ctl (x : Transfer) : (s.ackThenNext x).ctl = .busy .completeAck x := rfl
@[simp] theorem ackThenNext_fault (x : Transfer) : (s.ackThenNext x).fault = s.fault := rfl
@[simp] theorem ackThenNext_result (x : Transfer) : (s.ackThenNext x).result = s.result := rfl
@[simp] theorem ackThenNext_diag (x : Transfer) : (s.ackThenNext x).diag = s.diag := rfl
@[simp] theorem ackThenNext_hostMem (x : Transfer) : (s.ackThenNext x).hostMem = s.hostMem := rfl
@[simp] theorem ackThenNext_hostQueue (x : Transfer) : (s.ackThenNext x).hostQueue = s.hostQueue := rfl
@[simp] theorem ackThenNext_readAnswers (x : Transfer) : (s.ackThenNext x).readAnswers = s.readAnswers := rfl
@[simp] theorem ackThenNext_writeAnswers (x : Transfer) : (s.ackThenNext x).writeAnswers = s.writeAnswers := rfl
@[simp] theorem ackThenNext_calls (x : Transfer) : (s.ackThenNext x).calls = s.calls := rfl
@[simp] theorem ackThenNext_draws (x : Transfer) : (s.ackThenNext x).draws = s.draws := rfl

/-! ## finish -/

@[simp] theorem finish_cfg (x : Transfer) : (s.finish x).cfg = s.cfg := rfl
@[simp] theorem finish_raw (x : Transfer) : (s.finish x).raw = s.raw := rfl
@[simp] theorem finish_consumed (x : Transfer) : (s.finish x).consumed = x.p + 4 := rfl
@[simp] theorem finish_valid (x : Transfer) : (s.finish x).valid = s.valid := rfl
@[simp] theorem finish_sessInit (x : Transfer) : (s.finish x).sessInit = s.sessInit := rfl
@[simp] theorem finish_ctl (x : Transfer) : (s.finish x).ctl = .busy .finalAck x := rfl
@[simp] theorem finish_fault (x : Transfer) : (s.finish x).fault = s.fault := rfl
@[simp] theorem finish_result (x : Transfer) : (s.finish x).result = s.result := rfl
@[simp] theorem finish_diag (x : Transfer) : (s.finish x).diag = s.diag := rfl
@[simp] theorem finish_hostMem (x : Transfer) : (s.finish x).hostMem = s.hostMem := rfl
@[simp] theorem finish_hostQueue (x : Transfer) : (s.finish x).hostQueue = s.hostQueue := rfl
@[simp] theorem finish_readAnswers (x : Transfer) : (s.finish x).readAnswers = s.readAnswers := rfl
@[simp] theorem finish_writeAnswers (x : Transfer) : (s.finish x).writeAnswers = s.writeAnswers := rfl
@[simp] theorem finish_calls (x : Transfer) : (s.finish x).calls = s.calls := rfl
@[simp] theorem finish_draws (x : Transfer) : (s.finish x).draws = s.draws := rfl

/-! ## storeChunk -/

@[simp] theorem storeChunk_cfg (x : Transfer) (bs : List Byte) : (s.storeChunk x bs).cfg = s.cfg := rfl
@[simp] theorem storeChunk_raw (x : Transfer) (bs : List Byte) : (s.storeChunk x bs).raw = s.raw := rfl
@[simp] theorem storeChunk_consumed (x : Transfer) (bs : List Byte) : (s.storeChunk x bs).consumed = s.consumed := rfl
@[simp] theorem storeChunk_valid (x : Transfer) (bs : List Byte) : (s.storeChunk x bs).valid = s.valid := rfl
@[simp] theorem storeChunk_sessInit (x : Transfer) (bs : List Byte) : (s.storeChunk x bs).sessInit = s.sessInit := rfl
@[simp] theorem storeChunk_ctl (x : Transfer) (bs : List Byte) : (s.storeChunk x bs).ctl = s.ctl := rfl
@[simp] theorem storeChunk_fault (x : Transfer) (bs : List Byte) : (s.storeChunk x bs).fault = s.fault := rfl
@[simp] theorem storeChunk_result (x : Transfer) (bs : List Byte) : (s.storeChunk x bs).result = s.result := rfl
@[simp] theorem storeChunk_diag (x : Transfer) (bs : List Byte) : (s.storeChunk x bs).diag = s.diag := rfl
@[simp] theorem storeChunk_hostMem (x : Transfer) (bs : List Byte) : (s.storeChunk x bs).hostMem = outWrites s.hostMem x.out x.written bs := rfl
@[simp] theorem storeChunk_hostQueue (x : Transfer) (bs : List Byte) : (s.storeChunk x bs).hostQueue = s.hostQueue := rfl
@[simp] theorem storeChunk_readAnswers (x : Transfer) (bs : List Byte) : (s.storeChunk x bs).readAnswers = s.readAnswers := rfl
@[simp] theorem storeChunk_writeAnswers (x : Transfer) (bs : List Byte) : (s.storeChunk x bs).writeAnswers = s.writeAnswers := rfl
@[simp] theorem storeChunk_calls (x : Transfer) (bs : List Byte) : (s.storeChunk x bs).calls = s.calls := rfl
@[simp] theorem storeChunk_draws (x : Transfer) (bs : List Byte) : (s.storeChunk x bs).draws = s.draws := rfl

end Sys2Proof.Machine
end

