-- ==== Sys2Proof/Laws/Ops.lean ====
section
/-! SUPPORT. For each shared operation, the lemma that says once everything it can do. -/

namespace Sys2Proof.Machine

variable {s t : State} {x : Transfer}

/-! ## Acceptance -/

theorem whenIdle_eq (hf : s.fault = none) (hc : s.ctl = .idle) (k : Host.Outcome State Fault Refusal) :
    whenIdle s k = k := by
  simp [whenIdle, hf, hc]

theorem whenIdle_next {k : Host.Outcome State Fault Refusal} (h : whenIdle s k = .next t) :
    s.fault = none ∧ s.ctl = .idle ∧ k = .next t := by
  unfold whenIdle at h
  split at h
  · cases h
  · next hf hc => exact ⟨hf, hc, h⟩
  · cases h

theorem inScan_eq (hf : s.fault = none) (hc : s.ctl = .busy .scan x)
    (k : Transfer → Host.Outcome State Fault Refusal) : inScan s k = k x := by
  simp [inScan, hf, hc]

theorem inScan_next {k : Transfer → Host.Outcome State Fault Refusal} (h : inScan s k = .next t) :
    ∃ x, s.fault = none ∧ s.ctl = .busy .scan x ∧ k x = .next t := by
  unfold inScan at h
  split at h
  · cases h
  · next x hf hc => exact ⟨x, hf, hc, h⟩
  · cases h

/-! ## Conditions -/

@[simp] theorem exhausted_iff : exhausted s = true ↔ s.valid ≤ s.consumed := by simp [exhausted]

@[simp] theorem sizeMatches_iff {len : BitVec 16} {req : Size} : sizeMatches len req = true ↔ announced len = req := by
  simp [sizeMatches]

@[simp] theorem overflows_iff {w n : Nat} {req : Size} : overflows w n req = true ↔ req.toNat < w + n := by
  simp [overflows]

@[simp] theorem completes_iff {w : Nat} {req : Size} : completes w req = true ↔ w = req.toNat := by
  simp [completes]

@[simp] theorem passEnded_iff : passEnded s x = true ↔ s.valid ≤ x.p := by simp [passEnded]

@[simp] theorem endsInsideGroup_iff : endsInsideGroup s x = true ↔ s.valid < x.p + 4 := by simp [endsInsideGroup]

@[simp] theorem retriesExceeded_iff {limit : Option Nat} {n : Nat} :
    retriesExceeded limit n = true ↔ ∃ l, limit = some l ∧ l < n := by
  cases limit <;> simp [retriesExceeded]

@[simp] theorem regionTooSmall_iff {req : Size} {out : OutRegion} :
    regionTooSmall req out = true ↔ out.len < req.toNat := by
  simp [regionTooSmall]

@[simp] theorem overruns_iff {cap : Nat} {bs : List Byte} : overruns cap bs = true ↔ cap < bs.length := by
  simp [overruns]

/-! ## The abort -/

/-- R147: an abort leaves `consumed`, or (from Scan and CompleteAck only) sets it to `valid` or past the group. -/
theorem abortOffset_cases (s : State) (ph : OpPhase) (x : Transfer) :
    abortOffset s ph x = s.consumed ∨
      ((ph = .scan ∨ ph = .completeAck) ∧ (abortOffset s ph x = s.valid ∨ abortOffset s ph x = x.p + 4)) := by
  cases ph <;> simp only [abortOffset, true_or]
  all_goals cases s.cfg.abortPolicy <;> simp

/-! ## The dispatch of a group -/

theorem sizeStep_cases (len : BitVec 16) (s : State) (x : Transfer) :
    (x.tstate = .waitingForSize ∧ announced len = x.req ∧
      sizeStep len s x = s.nextGroup { x with tstate := .receiving, written := 0 }) ∨
    (¬(x.tstate = .waitingForSize ∧ announced len = x.req) ∧
      ∃ k v, sizeStep len s x = (s.emit k x.p v).nextGroup x) := by
  unfold sizeStep
  cases hx : x.tstate
  · by_cases hm : announced len = x.req
    · exact .inl ⟨rfl, hm, by simp [hm]⟩
    · exact .inr ⟨by simp [hm], .sizeMismatch, len.toNat, by simp only [sizeMatches_iff, hm, if_false]⟩
  · exact .inr ⟨by simp, _, _, rfl⟩
  · exact .inr ⟨by simp, _, _, rfl⟩

theorem dataStep_cases (tag : Byte) (bs : List Byte) (s : State) (x : Transfer) :
    (x.tstate = .receiving ∧ x.req.toNat < x.written + bs.length ∧
      dataStep tag bs s x = s.abort .scan x .overflow) ∨
    (x.tstate = .receiving ∧ x.written + bs.length = x.req.toNat ∧
      dataStep tag bs s x = (s.storeChunk x bs).ackThenNext
        { x with written := x.written + bs.length, tstate := .waitingForEnd }) ∨
    (x.tstate = .receiving ∧ x.written + bs.length < x.req.toNat ∧
      dataStep tag bs s x = (s.storeChunk x bs).nextGroup
        { x with written := x.written + bs.length }) ∨
    (x.tstate ≠ .receiving ∧ dataStep tag bs s x = (s.emit .dataIgnored x.p tag.toNat).nextGroup x) := by
  unfold dataStep
  cases hx : x.tstate
  · exact .inr (.inr (.inr ⟨by simp, rfl⟩))
  · by_cases ho : x.req.toNat < x.written + bs.length
    · exact .inl ⟨rfl, ho, by simp [ho]⟩
    · by_cases hc : x.written + bs.length = x.req.toNat
      · exact .inr (.inl ⟨rfl, hc, by simp [acceptChunk, hc]⟩)
      · have h1 : overflows x.written bs.length x.req = false := by simp [overflows]; omega
        have h2 : completes (x.written + bs.length) x.req = false := by simp [completes, hc]
        exact .inr (.inr (.inl ⟨rfl, by omega, by simp [h1, acceptChunk, h2, hx]⟩))
  · exact .inr (.inr (.inr ⟨by simp, rfl⟩))

theorem endStep_cases (s : State) (x : Transfer) :
    (x.tstate = .waitingForEnd ∧ endStep s x = s.finish x) ∨
    (x.tstate ≠ .waitingForEnd ∧ endStep s x = (s.emit .endIgnored x.p tagEnd.toNat).nextGroup x) := by
  unfold endStep
  cases hx : x.tstate
  · exact .inr ⟨by simp, rfl⟩
  · exact .inr ⟨by simp, rfl⟩
  · exact .inl ⟨rfl, rfl⟩

/-! ## Physical reads and acks -/

theorem refillStep_cases (s : State) (x : Transfer) :
    (∃ bs, nextReadAnswer s = .ok bs ∧ s.cfg.cap < bs.length ∧
      refillStep s x = s.physicalRead.raiseFault .transportOverrun) ∨
    (∃ bs, nextReadAnswer s = .ok bs ∧ bs.length ≤ s.cfg.cap ∧
      refillStep s x = fillBuffer s.physicalRead x bs) ∨
    (nextReadAnswer s = .timeout ∧ (∃ l, s.cfg.retryLimit = some l ∧ l < x.tries + 1) ∧
      refillStep s x = s.physicalRead.abort .refill x .timeout) ∨
    (nextReadAnswer s = .timeout ∧ (∀ l, s.cfg.retryLimit = some l → x.tries + 1 ≤ l) ∧
      refillStep s x = s.physicalRead.goTo .timeoutAck { x with tries := x.tries + 1 }) ∨
    (∃ c, nextReadAnswer s = .err c ∧ refillStep s x = s.physicalRead.abort .refill x (.transport c)) := by
  unfold refillStep
  cases ha : nextReadAnswer s with
  | ok bs =>
    by_cases ho : s.cfg.cap < bs.length
    · exact .inl ⟨bs, rfl, ho, by simp [ho]⟩
    · refine .inr (.inl ⟨bs, rfl, by omega, ?_⟩)
      simp only [overruns_iff, ho, if_false]
  | timeout =>
    by_cases hr : retriesExceeded s.cfg.retryLimit (x.tries + 1) = true
    · exact .inr (.inr (.inl ⟨rfl, retriesExceeded_iff.1 hr, by simp only [hr, if_true]⟩))
    · refine .inr (.inr (.inr (.inl ⟨rfl, fun l hl => ?_, by simp only [hr]; simp⟩)))
      by_contra hlt
      exact hr (retriesExceeded_iff.2 ⟨l, hl, by omega⟩)
  | err c => exact .inr (.inr (.inr (.inr ⟨c, rfl, rfl⟩)))

theorem timeoutAckStep_cases (s : State) (x : Transfer) :
    (nextWriteAnswer s = .ok ∧ timeoutAckStep s x = s.ackWrite.goTo .refill x) ∨
    (∃ c, nextWriteAnswer s = .err c ∧ timeoutAckStep s x = s.ackWrite.abort .timeoutAck x (.transport c)) := by
  unfold timeoutAckStep
  cases nextWriteAnswer s with
  | ok => exact .inl ⟨rfl, rfl⟩
  | err c => exact .inr ⟨c, rfl, rfl⟩

theorem completeAckStep_cases (s : State) (x : Transfer) :
    (nextWriteAnswer s = .ok ∧ completeAckStep s x = s.ackWrite.goTo .scan { x with p := x.p + 4 }) ∨
    (∃ c, nextWriteAnswer s = .err c ∧ completeAckStep s x = s.ackWrite.abort .completeAck x (.transport c)) := by
  unfold completeAckStep
  cases nextWriteAnswer s with
  | ok => exact .inl ⟨rfl, rfl⟩
  | err c => exact .inr ⟨c, rfl, rfl⟩

theorem finalAckStep_cases (s : State) (x : Transfer) :
    (nextWriteAnswer s = .ok ∧ finalAckStep s x = s.ackWrite.returnWith (.ok x.req)) ∨
    (∃ c, nextWriteAnswer s = .err c ∧ finalAckStep s x = s.ackWrite.returnWith (.err (.transport c))) := by
  unfold finalAckStep
  cases nextWriteAnswer s with
  | ok => exact .inl ⟨rfl, rfl⟩
  | err c => exact .inr ⟨c, rfl, rfl⟩

end Sys2Proof.Machine
end

