-- ==== Sys2Proof/Laws/PerInstr.lean ====
section
/-! SUPPORT. Statements about every instruction as syntax, one lemma per constructor. -/

namespace Sys2Proof.Laws.EncodeOnWire

/-- R89, R90: a chunk group is 4 bytes, an ack 1 and a command frame 11, and a host operation has no binary encoding. -/
def Statement (i : Instr) : Prop :=
  (i.channel = none ∧ encode i = []) ∨
  (i.channel = some .fromDevice ∧ (encode i).length = 4) ∨
  (i.channel = some .toDevice ∧ ((encode i).length = 1 ∨ (encode i).length = 11))

theorem sizeAnnounce (b1 : Byte) (len : BitVec 16) : Statement (.sizeAnnounce b1 len) := .inr (.inl ⟨rfl, rfl⟩)

theorem data1 (d0 : Byte) (pad : BitVec 16) : Statement (.data1 d0 pad) := .inr (.inl ⟨rfl, rfl⟩)

theorem data2 (d0 d1 pad : Byte) : Statement (.data2 d0 d1 pad) := .inr (.inl ⟨rfl, rfl⟩)

theorem data3 (d0 d1 d2 : Byte) : Statement (.data3 d0 d1 d2) := .inr (.inl ⟨rfl, rfl⟩)

theorem endMark (pad : BitVec 24) : Statement (.endMark pad) := .inr (.inl ⟨rfl, rfl⟩)

theorem unknown (t : Byte) (rest : BitVec 24) : Statement (.unknown t rest) := .inr (.inl ⟨rfl, rfl⟩)

theorem cmdFrame (cmd arg : BitVec 32) : Statement (.cmdFrame cmd arg) := .inr (.inr ⟨rfl, .inr rfl⟩)

theorem ack : Statement .ack := .inr (.inr ⟨rfl, .inl rfl⟩)

theorem init : Statement .init := .inl ⟨rfl, rfl⟩

theorem encodeCmd (cmd arg : BitVec 32) : Statement (.encodeCmd cmd arg) := .inl ⟨rfl, rfl⟩

theorem ackByte : Statement .ackByte := .inl ⟨rfl, rfl⟩

theorem receive (req : Size) (out : OutRegion) : Statement (.receive req out) := .inl ⟨rfl, rfl⟩

end Sys2Proof.Laws.EncodeOnWire
end

