-- ==== Sys2Proof/Laws/Step.lean ====
section
/-! SUPPORT. Everything a step can do, said once: the inversion of `step`, from which every invariant follows by cases. -/

namespace Sys2Proof.Machine

variable {s t : State}

/-- What running a group does in Scan: one of four shapes of meaning, by the group's class. -/
inductive GroupRun (s : State) (x : Transfer) : State → Prop where
  | size (len : BitVec 16) : GroupRun s x (sizeStep len s x)
  | data (tag : Byte) (bs : List Byte) (h1 : 1 ≤ bs.length) (h3 : bs.length ≤ 3) : GroupRun s x (dataStep tag bs s x)
  | endMark : GroupRun s x (endStep s x)
  | unknown (t : Byte) : GroupRun s x ((s.emit .unknownTag x.p t.toNat).nextGroup x)

/-- What one step can do from a state with no fault. -/
inductive StepTo (s : State) : State → Prop where
  | wait (hc : s.ctl = .idle) (hq : s.hostQueue = []) : StepTo s s.handOver
  | init (rest : List HostAction) (hc : s.ctl = .idle) (hq : s.hostQueue = .init :: rest) :
      StepTo s { s with hostQueue := rest, consumed := 0, valid := 0, sessInit := true, result := none }
  | encode (cmd arg : BitVec 32) (rest : List HostAction) (hc : s.ctl = .idle)
      (hq : s.hostQueue = .encode cmd arg :: rest) :
      StepTo s (State.returnWith { s.handOver with hostQueue := rest } (.frame (frameOf cmd arg)))
  | ackByte (rest : List HostAction) (hc : s.ctl = .idle) (hq : s.hostQueue = .ackByte :: rest) :
      StepTo s (State.returnWith { s.handOver with hostQueue := rest } (.byte ackValue))
  | receiveFault (req : Size) (out : OutRegion) (rest : List HostAction) (hc : s.ctl = .idle)
      (hq : s.hostQueue = .receive req out :: rest) (hi : s.sessInit = false) :
      StepTo s (State.raiseFault { s.handOver with hostQueue := rest } .sessionUninitialised)
  | receiveRefill (req : Size) (out : OutRegion) (rest : List HostAction) (hc : s.ctl = .idle)
      (hq : s.hostQueue = .receive req out :: rest) (hi : s.sessInit = true) (hl : req.toNat ≤ out.len)
      (he : s.valid ≤ s.consumed) :
      StepTo s (State.goTo { s with hostQueue := rest, result := none } .refill (startTransfer req out s))
  | receiveScan (req : Size) (out : OutRegion) (rest : List HostAction) (hc : s.ctl = .idle)
      (hq : s.hostQueue = .receive req out :: rest) (hi : s.sessInit = true) (hl : req.toNat ≤ out.len)
      (he : s.consumed < s.valid) :
      StepTo s (State.goTo { s with hostQueue := rest, result := none } .scan (startTransfer req out s))
  | hostWrite (bytes sent : List Byte) (rest : List HostAction) (hc : s.ctl = .idle)
      (hq : s.hostQueue = .write bytes :: rest) : StepTo s (State.hostWrites { s.handOver with hostQueue := rest } sent)
  | hostRead (rest : List HostAction) (hc : s.ctl = .idle) (hq : s.hostQueue = .bulkRead :: rest) :
      StepTo s (State.hostReads { s.handOver with hostQueue := rest })
  | refill (x : Transfer) (hc : s.ctl = .busy .refill x) : StepTo s (refillStep s x)
  | timeoutAck (x : Transfer) (hc : s.ctl = .busy .timeoutAck x) : StepTo s (timeoutAckStep s x)
  | completeAck (x : Transfer) (hc : s.ctl = .busy .completeAck x) : StepTo s (completeAckStep s x)
  | finalAck (x : Transfer) (hc : s.ctl = .busy .finalAck x) : StepTo s (finalAckStep s x)
  | endPass (x : Transfer) (hc : s.ctl = .busy .scan x) (hp : s.valid ≤ x.p) : StepTo s (endPassStep s x)
  | partialGroup (x : Transfer) (hc : s.ctl = .busy .scan x) (hp : x.p < s.valid) (hv : s.valid < x.p + 4) :
      StepTo s (s.raiseFault .partialGroup)
  | group (x : Transfer) (g : Group) (hc : s.ctl = .busy .scan x) (hp : x.p + 4 ≤ s.valid)
      (hg : readGroup s.raw x.p = some g) {t : State} (he : exec (decodeGroup g) s = .next t) (hr : GroupRun s x t) :
      StepTo s t

theorem exec_decodeGroup_next {g : Group} (h : exec (decodeGroup g) s = .next t) :
    ∃ x, s.fault = none ∧ s.ctl = .busy .scan x ∧ GroupRun s x t := by
  unfold decodeGroup at h
  split_ifs at h
  all_goals
    obtain ⟨x, hf, hc, h⟩ := inScan_next h
    cases h
    refine ⟨x, hf, hc, ?_⟩
  · exact .size _
  · exact .data _ _ (by simp [payload1]) (by simp [payload1])
  · exact .data _ _ (by simp [payload2]) (by simp [payload2])
  · exact .data _ _ (by simp [payload3]) (by simp [payload3])
  · exact .endMark
  · exact .unknown _

theorem decode_toDevice {bs : List Byte} {i : Instr} (h : decode .toDevice bs = .ok i) :
    i = .ack ∨ ∃ cmd arg, i = .cmdFrame cmd arg := by
  unfold decode at h
  split at h
  · contradiction
  · contradiction
  · unfold decodeAck at h
    split at h
    · cases h; exact .inl rfl
    · cases h
  · unfold decodeFrame at h
    split at h
    · cases h; exact .inr ⟨_, _, rfl⟩
    · cases h
  · cases h

theorem execAck_idle (hf : s.fault = none) (hc : s.ctl = .idle) :
    execAck s = .next (s.hostWrites (encode .ack)) := by
  simp only [execAck, hf, hc]

/-- What a host move does in an Idle block. -/
theorem hostMove_next {a : HostAction} (hf : s.fault = none) (hc : s.ctl = .idle)
    (h : (match hostMove a s with
      | .run i s' => exec i s'
      | .move s' => .next s'
      | .halt f => .fault f
      | .refuse r => .refused r) = Host.Outcome.next t) :
    (a = .init ∧ t = { s with consumed := 0, valid := 0, sessInit := true, result := none }) ∨
    (∃ cmd arg, a = .encode cmd arg ∧ t = s.returnWith (.frame (frameOf cmd arg))) ∨
    (a = .ackByte ∧ t = s.returnWith (.byte ackValue)) ∨
    (∃ req out, a = .receive req out ∧ s.sessInit = false ∧ t = s.raiseFault .sessionUninitialised) ∨
    (∃ req out, a = .receive req out ∧ s.sessInit = true ∧ req.toNat ≤ out.len ∧ s.valid ≤ s.consumed ∧
      t = State.goTo { s with result := none } .refill (startTransfer req out s)) ∨
    (∃ req out, a = .receive req out ∧ s.sessInit = true ∧ req.toNat ≤ out.len ∧ s.consumed < s.valid ∧
      t = State.goTo { s with result := none } .scan (startTransfer req out s)) ∨
    (∃ bytes sent, a = .write bytes ∧ t = s.hostWrites sent) ∨
    (a = .bulkRead ∧ t = s.hostReads) := by
  cases a with
  | init =>
    obtain ⟨-, -, h⟩ := whenIdle_next h
    exact .inl ⟨rfl, (Host.Outcome.next.inj h).symm⟩
  | encode cmd arg =>
    obtain ⟨-, -, h⟩ := whenIdle_next h
    exact .inr (.inl ⟨cmd, arg, rfl, (Host.Outcome.next.inj h).symm⟩)
  | ackByte =>
    obtain ⟨-, -, h⟩ := whenIdle_next h
    exact .inr (.inr (.inl ⟨rfl, (Host.Outcome.next.inj h).symm⟩))
  | receive req out =>
    obtain ⟨-, -, h⟩ := whenIdle_next h
    refine .inr (.inr (.inr ?_))
    split_ifs at h with h1 h2 h3
    · exact .inl ⟨req, out, rfl, h1, (Host.Outcome.next.inj h).symm⟩
    · exact .inr (.inl ⟨req, out, rfl, by simpa using h1, by simpa using h2, by simpa using h3,
        (Host.Outcome.next.inj h).symm⟩)
    · exact .inr (.inr (.inl ⟨req, out, rfl, by simpa using h1, by simpa using h2, by simpa using h3,
        (Host.Outcome.next.inj h).symm⟩))
  | write bytes =>
    refine .inr (.inr (.inr (.inr (.inr (.inr (.inl ?_))))))
    simp only [hostMove] at h
    cases hd : decode .toDevice bytes with
    | error e => simp [hd] at h
    | ok i =>
      simp only [hd] at h
      rcases decode_toDevice hd with rfl | ⟨cmd, arg, rfl⟩
      · exact ⟨bytes, _, rfl, (Host.Outcome.next.inj ((execAck_idle hf hc).symm.trans h)).symm⟩
      · obtain ⟨-, -, h⟩ := whenIdle_next h
        exact ⟨bytes, _, rfl, (Host.Outcome.next.inj h).symm⟩
  | bulkRead =>
    exact .inr (.inr (.inr (.inr (.inr (.inr (.inr ⟨rfl, (Host.Outcome.next.inj h).symm⟩))))))

theorem fetch_faulted {k : FaultKind} (hf : s.fault = some k) : fetch s = .halt (.halted k) := by
  simp only [fetch, hf]

theorem fetch_idle (hf : s.fault = none) (hc : s.ctl = .idle) : fetch s = fetchHost s := by
  simp only [fetch, hf, hc]

theorem fetch_refill {x : Transfer} (hf : s.fault = none) (hc : s.ctl = .busy .refill x) :
    fetch s = .move (refillStep s x) := by
  simp only [fetch, hf, hc]

theorem fetch_scan {x : Transfer} (hf : s.fault = none) (hc : s.ctl = .busy .scan x) :
    fetch s = fetchScan s x := by
  simp only [fetch, hf, hc]

theorem step_timeoutAck {x : Transfer} (hf : s.fault = none) (hc : s.ctl = .busy .timeoutAck x) :
    step s = .next (timeoutAckStep s x) := by
  simp only [step, fetch, hf, hc, exec, execAck]

theorem step_completeAck {x : Transfer} (hf : s.fault = none) (hc : s.ctl = .busy .completeAck x) :
    step s = .next (completeAckStep s x) := by
  simp only [step, fetch, hf, hc, exec, execAck]

theorem step_finalAck {x : Transfer} (hf : s.fault = none) (hc : s.ctl = .busy .finalAck x) :
    step s = .next (finalAckStep s x) := by
  simp only [step, fetch, hf, hc, exec, execAck]

theorem step_refill {x : Transfer} (hf : s.fault = none) (hc : s.ctl = .busy .refill x) :
    step s = .next (refillStep s x) := by
  simp only [step, fetch_refill hf hc]

theorem step_scan_cases {x : Transfer} (hf : s.fault = none) (hc : s.ctl = .busy .scan x) :
    (s.valid ≤ x.p ∧ step s = .next (endPassStep s x)) ∨
    (x.p < s.valid ∧ s.valid < x.p + 4 ∧ step s = .next (s.raiseFault .partialGroup)) ∨
    (x.p + 4 ≤ s.valid ∧ readGroup s.raw x.p = none ∧ step s = .fault .unwrittenCell) ∨
    (∃ g, x.p + 4 ≤ s.valid ∧ readGroup s.raw x.p = some g ∧ step s = exec (decodeGroup g) s) := by
  simp only [step, fetch_scan hf hc, fetchScan, passEnded_iff, endsInsideGroup_iff]
  by_cases h1 : s.valid ≤ x.p
  · exact .inl ⟨h1, by simp only [h1, if_true]⟩
  · by_cases h2 : s.valid < x.p + 4
    · exact .inr (.inl ⟨by omega, h2, by simp only [h1, h2, if_true, if_false]⟩)
    · cases hg : readGroup s.raw x.p with
      | none => exact .inr (.inr (.inl ⟨by omega, rfl, by simp only [h1, h2, if_false]⟩))
      | some g => exact .inr (.inr (.inr ⟨g, by omega, rfl, by simp only [h1, h2, if_false]⟩))

/-- The inversion of `step`. -/
theorem step_cases (h : step s = .next t) : s.fault = none ∧ StepTo s t := by
  cases hf : s.fault with
  | some k => simp [step, fetch_faulted hf] at h
  | none =>
    refine ⟨rfl, ?_⟩
    cases hc : s.ctl with
    | idle =>
      cases hq : s.hostQueue with
      | nil =>
        simp only [step, fetch_idle hf hc, fetchHost, hq] at h
        exact Host.Outcome.next.inj h ▸ .wait hc hq
      | cons a rest =>
        simp only [step, fetch_idle hf hc, fetchHost, hq] at h
        obtain ⟨rfl, rfl⟩ | ⟨cmd, arg, rfl, rfl⟩ | ⟨rfl, rfl⟩ | ⟨req, out, rfl, hi, rfl⟩ |
          ⟨req, out, rfl, hi, hl, he, rfl⟩ | ⟨req, out, rfl, hi, hl, he, rfl⟩ | ⟨bytes, sent, rfl, rfl⟩ | ⟨rfl, rfl⟩ :=
          hostMove_next (s := { s.handOver with hostQueue := rest }) hf hc h
        · exact .init rest hc hq
        · exact .encode cmd arg rest hc hq
        · exact .ackByte rest hc hq
        · exact .receiveFault req out rest hc hq hi
        · exact .receiveRefill req out rest hc hq hi hl he
        · exact .receiveScan req out rest hc hq hi hl he
        · exact .hostWrite bytes sent rest hc hq
        · exact .hostRead rest hc hq
    | busy ph x =>
      cases ph with
      | refill => exact Host.Outcome.next.inj ((step_refill hf hc).symm.trans h) ▸ .refill x hc
      | timeoutAck => exact Host.Outcome.next.inj ((step_timeoutAck hf hc).symm.trans h) ▸ .timeoutAck x hc
      | completeAck => exact Host.Outcome.next.inj ((step_completeAck hf hc).symm.trans h) ▸ .completeAck x hc
      | finalAck => exact Host.Outcome.next.inj ((step_finalAck hf hc).symm.trans h) ▸ .finalAck x hc
      | scan =>
        obtain ⟨hp, e⟩ | ⟨hp, hv, e⟩ | ⟨-, -, e⟩ | ⟨g, hp, hg, e⟩ := step_scan_cases hf hc
        · exact Host.Outcome.next.inj (e.symm.trans h) ▸ .endPass x hc hp
        · exact Host.Outcome.next.inj (e.symm.trans h) ▸ .partialGroup x hc hp hv
        · rw [e] at h; cases h
        · obtain ⟨y, -, hy, hr⟩ := exec_decodeGroup_next (e.symm.trans h)
          obtain rfl : x = y := by rw [hc] at hy; cases hy; rfl
          exact .group x g hc hp hg (e.symm.trans h) hr

end Sys2Proof.Machine
end

