-- ==== Sys2Proof/Tests/Slice0.lean ====
section
/-! SUPPORT. Tests. Every expected value comes from spec/95_test_vectors.md (its id stands in the docstring) or is worked out by
hand from the rule named; the witnesses show, for each obligation, a state that meets all its hypotheses together. -/

open Sys2Proof Sys2Proof.Machine

namespace Sys2Proof.Tests

/-! ## Helpers -/

/-- The next state, if there is one. -/
def nextOf : Host.Outcome State Fault Refusal → Option State
  | .next t => some t
  | _ => none

/-- The fault, if there is one. -/
def faultOf : Host.Outcome State Fault Refusal → Option Fault
  | .fault f => some f
  | _ => none

/-- The refusal, if there is one. -/
def refusalOf : Host.Outcome State Fault Refusal → Option Refusal
  | .refused r => some r
  | _ => none

theorem next_with {o : Host.Outcome State Fault Refusal} {p : State → Prop} [DecidablePred p]
    (h : (nextOf o).any (fun t => decide (p t)) = true) : ∃ t, o = .next t ∧ p t := by
  cases o with
  | next t => exact ⟨t, rfl, by simpa [nextOf] using h⟩
  | fault f => cases h
  | refused r => cases h

/-- A small configuration, nothing free in it. -/
def cfg (limit : Option Nat) (policy : AbortPolicy) : Config := ⟨16, 1000, 1000, limit, policy, 1, 2⟩

/-- An initialised, idle, exhausted block whose host asks for `q` next. -/
def idleState (q : List HostAction) : State :=
  { State.reset with cfg := cfg none .exhaust, sessInit := true, hostQueue := q }

/-- The one transport code that is known to exist (log 4). -/
def code : TransportCode := ⟨0, .inl rfl⟩

/-- Transfer registers of a RECEIVE into a region of exactly `req` bytes at host address 100. -/
def tr (ts : TState) (req : Size) (written p : Nat) : Transfer := ⟨ts, req, written, p, 0, ⟨100, req.toNat⟩⟩

/-- A block inside a RECEIVE, with the given buffer content all valid, consumed from `c` on. -/
def busyState (ph : OpPhase) (x : Transfer) (c : Nat) (bytes : List Byte) : State :=
  { State.reset with
    cfg := cfg none .exhaust
    raw := cellsFrom 0 bytes
    consumed := c
    valid := bytes.length
    sessInit := true
    ctl := .busy ph x }

/-- A state of section 3 of the vectors: the group at `p = 8` is about to be dispatched. -/
def dsp (ts : TState) (req : Size) (written : Nat) : State :=
  busyState .scan (tr ts req written 8) 0 [0, 0, 0, 0, 0, 0, 0, 0, 0, 0, 0, 0]

/-- What a dispatch of section 3 leaves: the control, the host's memory, `consumed` and the result. -/
def seen (o : Host.Outcome State Fault Refusal) : Option (Control × Memory × Nat × Option Result) :=
  (nextOf o).map fun t => (t.ctl, t.hostMem, t.consumed, t.result)

/-- The invariant of a state inside a RECEIVE without a retry limit, from facts that can be decided. -/
theorem inv_busy {s : State} {ph : OpPhase} {x : Transfer} (hc : s.ctl = .busy ph x)
    (h : s.cfg.Legal ∧ s.raw.wf ∧ s.hostMem.wf ∧ (∀ c ∈ s.raw, c.1 < s.cfg.cap) ∧
      (∀ i, i < s.valid → (s.raw.read i).isSome) ∧ OffsetsInOrder s ∧ (s.consumed % 4 = 0 ∨ s.consumed = s.valid) ∧
      s.sessInit = true ∧ s.cfg.retryLimit = none ∧ s.result = none)
    (ht : x.req.toNat ≤ x.out.len ∧ x.written ≤ x.req.toNat ∧ (x.tstate = .waitingForSize → x.written = 0) ∧
      (x.tstate = .receiving → x.written < x.req.toNat ∨ x.req = 0) ∧
      (x.tstate = .waitingForEnd → x.written = x.req.toNat ∧ x.req ≠ 0))
    (hp : PhaseInv s ph x) : s.Inv := by
  obtain ⟨h1, h2, h3, h4, h5, h6, h7, h8, h9, h10⟩ := h
  obtain ⟨t1, t2, t3, t4, t5⟩ := ht
  refine ⟨h1, h2, h3, h4, h5, h6, h7, fun _ _ _ => h10, fun _ _ _ => h8, fun ph' y hy => ?_, fun ph' y hy => ?_⟩
  · rw [hc] at hy; cases hy
    exact ⟨t1, t2, t3, t4, t5, fun l hl => by rw [h9] at hl; cases hl⟩
  · rw [hc] at hy; cases hy
    exact hp

/-- `insideReceive`, as a check. -/
def insideCheck : Nat → State → Bool
  | 0, _ => true
  | k + 1, s => s.phase.isSome && match step s with
    | .next t => insideCheck k t
    | _ => false

theorem inside_of_check : ∀ {k : Nat} {s : State}, insideCheck k s = true → insideReceive k s
  | 0, _, _ => trivial
  | k + 1, s, h => by
    simp only [insideCheck, Bool.and_eq_true] at h
    refine ⟨?_, ?_⟩
    · cases hc : s.ctl with
      | idle => simp [State.phase, hc] at h
      | busy ph x => exact ⟨ph, x, rfl⟩
    · cases hs : step s with
      | next t => simp only [hs] at h; exact inside_of_check h.2
      | fault f => simp [hs] at h
      | refused r => simp [hs] at h

/-! ## Decoding: words written out from the spec's encodings -/

/-- R82's example `[1B FF 00 05]`. -/
theorem test_decode_size : decode .fromDevice [0x1B, 0xFF, 0x00, 0x05] = .ok (.sizeAnnounce 0xFF 5) := by decide

/-- R83, V-DSP23: tag, one payload byte, two of padding. -/
theorem test_decode_data1 : decode .fromDevice [0x1D, 0x7E, 0x99, 0x98] = .ok (.data1 0x7E 0x9998) := by decide

/-- R83, V-DSP22: tag, two payload bytes, one of padding. -/
theorem test_decode_data2 : decode .fromDevice [0x1E, 0x01, 0x02, 0xFF] = .ok (.data2 0x01 0x02 0xFF) := by decide

/-- R83, V-DSP16. -/
theorem test_decode_data3 : decode .fromDevice [0x1F, 0xAA, 0xBB, 0xCC] = .ok (.data3 0xAA 0xBB 0xCC) := by decide

/-- R84, V-DSP24. -/
theorem test_decode_end : decode .fromDevice [0x15, 0x00, 0x00, 0x00] = .ok (.endMark 0) := by decide

/-- R85: the tags beside the five, and the host-side ones, are all UNKNOWN. -/
theorem test_decode_unknown : ∀ t ∈ [0x14, 0x16, 0x1A, 0x1C, 0x20, 0x00, 0x42, 0x43, 0x44, 0xFF],
    decode .fromDevice [t, 0x01, 0x02, 0x03] = .ok (.unknown t 0x010203) := by decide

/-- R86, V-E7: operand bytes that equal the frame tags are read like any other. -/
theorem test_decode_frame : decode .toDevice [0x43, 0x42, 0x43, 0x44, 0x43, 0x43, 0x44, 0x43, 0x42, 0x42, 0x44] =
    .ok (.cmdFrame 0x42434443 0x44434244) := by decide

/-- R88: the ack is the one byte 0x44. -/
theorem test_decode_ack : decode .toDevice [0x44] = .ok .ack := by decide

/-- R80, R87, R88, R90: what is no instruction is rejected by name. -/
theorem test_decode_rejects :
    decode .fromDevice [0x1B, 0x00, 0x00] = .error .groupLength ∧ decode .toDevice [0x45] = .error .notAck ∧
    decode .toDevice [0x44, 0x44] = .error .outLength ∧
    decode .toDevice [0x42, 0, 0, 0, 0x43, 0, 0, 0, 0x42, 0, 0] = .error .frameTags := by decide

/-- The opcode table's match words, with operand bits of the rules' examples. -/
theorem test_table_words :
    decodeTableWord 32 0x1B001000 = some (.sizeAnnounce 0 4096) ∧
    decodeTableWord 32 0x1EDDEE00 = some (.data2 0xDD 0xEE 0) ∧
    decodeTableWord 32 0x15000000 = some (.endMark 0) ∧
    decodeTableWord 8 0x44 = some .ack ∧
    decodeTableWord 88 0x4311223343445566427788 = some (.cmdFrame 0x11223344 0x55667788) ∧
    decodeTableWord 16 0x1B00 = none := by decide

/-- R81: a tag of another class makes an UNKNOWN term ill formed. -/
theorem test_wf_rejects : ∀ t ∈ [tagEnd, tagSize, tagD1, tagD2, tagD3], (Instr.unknown t 0).wf = false := by decide

theorem test_wf_accepts : (Instr.unknown 0x1C 0).wf = true ∧ (Instr.endMark 0).wf = true := by decide

/-! ## The tag dispatcher -/

/-- V-DSP3: byte 1 is ignored. -/
theorem test_size_match : seen (exec (.sizeAnnounce 0xFF 5) (dsp .waitingForSize 5 0)) =
    some (.busy .scan (tr .receiving 5 0 12), [], 0, none) := by decide

/-- V-DSP8: no announcement matches a `req` above 0xFFFF. -/
theorem test_size_oversize : seen (exec (.sizeAnnounce 0 0xFFFF) (dsp .waitingForSize 0x10000 0)) =
    some (.busy .scan (tr .waitingForSize 0x10000 0 12), [], 0, none) := by decide

/-- V-DSP23: the padding is not written, and the transfer is complete with the cursor still on the group. -/
theorem test_data1_completes : seen (exec (.data1 0x7E 0x9999) (dsp .receiving 1 0)) =
    some (.busy .completeAck (tr .waitingForEnd 1 1 8), [(100, 0x7E)], 0, none) := by decide

/-- V-DSP19, with R147's Exhaust in a 12-byte buffer. -/
theorem test_data1_overflow : seen (exec (.data1 1 0) (dsp .receiving 0 0)) =
    some (.idle, [], 12, some (.err .overflow)) := by decide

/-- V-DSP14. -/
theorem test_data2_completes : seen (exec (.data2 0xDD 0xEE 0) (dsp .receiving 5 3)) =
    some (.busy .completeAck (tr .waitingForEnd 5 5 8), [(103, 0xDD), (104, 0xEE)], 0, none) := by decide

/-- V-DSP15's shape under AfterGroup (R147): `consumed` is past the group at 8. -/
theorem test_data2_overflow :
    (nextOf (exec (.data2 1 2 0) { dsp .receiving 4 3 with cfg := cfg none .afterGroup })).map (fun t =>
      (t.consumed, t.result)) = some (12, some (.err .overflow)) := by decide

/-- V-DSP16: an accepted chunk that does not complete the transfer. -/
theorem test_data3_next : seen (exec (.data3 0xAA 0xBB 0xCC) (dsp .receiving 6 0)) =
    some (.busy .scan (tr .receiving 6 3 12), [(100, 0xAA), (101, 0xBB), (102, 0xCC)], 0, none) := by decide

/-- V-DSP21: DATA in WaitingForSize is ignored. -/
theorem test_data3_ignored : seen (exec (.data3 1 2 3) (dsp .waitingForSize 3 0)) =
    some (.busy .scan (tr .waitingForSize 3 0 12), [], 0, none) := by decide

/-- V-DSP25: the bytes of END are ignored, and `consumed` becomes 12. -/
theorem test_end_done : seen (exec (.endMark 0xFFFFFF) (dsp .waitingForEnd 5 5)) =
    some (.busy .finalAck (tr .waitingForEnd 5 5 8), [], 12, none) := by decide

/-- V-DSP27: a short transfer is not closed. -/
theorem test_end_ignored : seen (exec (.endMark 0) (dsp .receiving 5 2)) =
    some (.busy .scan (tr .receiving 5 2 12), [], 0, none) := by decide

/-- V-DSP31: a frame tag means nothing in the receive stream. -/
theorem test_unknown : seen (exec (.unknown 0x43 0) (dsp .waitingForEnd 3 3)) =
    some (.busy .scan (tr .waitingForEnd 3 3 12), [], 0, none) := by decide

/-! ## The host's operations and the acks -/

/-- V-E8: the block encodes any `cmd` as given. -/
theorem test_encode : (nextOf (exec (.encodeCmd 0x11000000 0xFE4) (idleState []))).map (·.result) =
    some (some (.frame [0x43, 0x11, 0, 0, 0x43, 0, 0, 0, 0x42, 0x0F, 0xE4])) := by decide

/-- V-A1. -/
theorem test_ackByte : (nextOf (exec .ackByte (idleState []))).map (·.result) = some (some (.byte 0x44)) := by decide

/-- R34: the result is handed over once; the state after ACK_BYTE shows it, and the wait that follows does not. -/
theorem test_result_once : (nextOf (Sys2Proof.core.run 1 (idleState [.ackByte]))).map (·.result) = some (some (.byte 0x44)) ∧
    (nextOf (Sys2Proof.core.run 2 (idleState [.ackByte]))).map (·.result) = some none := by decide

/-- P1, call 1: the host's own write changes no framer register. -/
theorem test_frame_write :
    (nextOf (step { idleState [.write [0x43, 0, 0, 0, 0x43, 0x11, 0, 0, 0x42, 0x0F, 0xE4]] with
      writeAnswers := [.ok] })).map (fun t => (t.ctl, t.consumed, t.result, t.calls)) =
    some (.idle, 0, none, [.hostWrite [0x43, 0, 0, 0, 0x43, 0x11, 0, 0, 0x42, 0x0F, 0xE4] .ok]) := by decide

/-- V-RCV14: INIT discards the buffered bytes. -/
theorem test_init : (nextOf (exec .init { idleState [] with consumed := 12, valid := 24, sessInit := false })).map (fun t =>
    (t.consumed, t.valid, t.sessInit, t.ctl)) = some (0, 0, true, .idle) := by decide

/-- V-RCV1, R34: a RECEIVE before INIT returns nothing, and the result of the operation before it is gone. -/
theorem test_receive_before_init :
    (nextOf (step { State.reset with result := some (.byte 0x44), hostQueue := [.receive 4 ⟨100, 4⟩] })).map (fun t =>
      (t.result, t.fault)) = some (none, some .sessionUninitialised) := by decide

/-- V-RCV2. -/
theorem test_receive_short_region :
    refusalOf (exec (.receive 4 ⟨100, 3⟩) (idleState [])) = some .outRegionTooSmall := by decide

/-- V-RCV11 under Exhaust: the completion ack fails after the chunk at `p = 4` of a 12-byte buffer. -/
theorem test_completeAck_fails (c : TransportCode) :
    seen (step { busyState .completeAck (tr .waitingForEnd 1 1 4) 0 [0, 0, 0, 0, 0, 0, 0, 0, 0, 0, 0, 0] with
      writeAnswers := [.err c] }) = some (.idle, [], 12, some (.err (.transport c))) := rfl

/-- V-RCV12: the final ack fails and `consumed` keeps what END recorded. -/
theorem test_finalAck_fails (c : TransportCode) :
    seen (step { busyState .finalAck (tr .waitingForEnd 1 1 4) 8 [0, 0, 0, 0, 0, 0, 0, 0, 0, 0, 0, 0] with
      writeAnswers := [.err c] }) = some (.idle, [], 8, some (.err (.transport c))) := rfl

/-! ## The controller's own steps -/

/-- V-RCV3: with a limit of 0 the first timeout ends the RECEIVE, and no ack is sent. -/
theorem test_timeout_limit :
    (nextOf (step { busyState .refill (tr .waitingForSize 4 0 0) 0 [] with
      cfg := cfg (some 0) .exhaust, readAnswers := [.timeout] })).map (fun t => (t.ctl, t.result, t.calls.length)) =
    some (.idle, some (.err .timeout), 1) := by decide

/-- V-RCV7's shape: one byte more than CAP. -/
theorem test_overrun :
    (nextOf (step { busyState .refill (tr .waitingForSize 4 0 0) 0 [] with
      readAnswers := [.ok (List.replicate 17 0)] })).map (fun t => (t.fault, t.valid)) =
    some (some .transportOverrun, 0) := by decide

/-- V-RCV8: one trailing byte at `p = 4`. -/
theorem test_partial :
    (nextOf (step (busyState .scan (tr .receiving 5 0 4) 0 [0x1B, 0, 0, 5, 0x1F]))).map (fun t =>
      (t.fault, t.consumed, t.valid)) = some (some .partialGroup, 0, 5) := by decide

/-- P1, calls 2 and 4: a later, shorter read leaves the bytes after it in `raw`. -/
theorem test_read_keeps_tail :
    (nextOf (step { busyState .refill (tr .waitingForEnd 5 5 12) 12 [0x1B, 0, 0, 5, 0x1F, 0xAA, 0xBB, 0xCC, 0x1E, 0xDD, 0xEE, 0]
      with readAnswers := [.ok [0x15, 0, 0, 0]] })).map (fun t => (t.raw.map (·.2), t.consumed, t.valid)) =
    some ([0x15, 0, 0, 0, 0x1F, 0xAA, 0xBB, 0xCC, 0x1E, 0xDD, 0xEE, 0], 0, 4) := by decide

/-! ## A placed instruction is the next one to run -/

/-- An END group placed after reset runs as the next step, in WaitingForSize (R172). -/
theorem test_place_group : (nextOf (step (State.reset.withFetchWord 32 0x15000000))).map (fun t => t.transfer.map (·.p)) =
    some (some 4) := by decide

/-- A command frame placed after reset goes out as the host's next write. -/
theorem test_place_frame :
    (nextOf (step { State.reset.withFetchWord 88 0x4300000043110000420FE4 with writeAnswers := [.ok] })).map (·.calls) =
    some [.hostWrite [0x43, 0, 0, 0, 0x43, 0x11, 0, 0, 0x42, 0x0F, 0xE4] .ok] := by decide

/-! ## Witnesses: for each obligation, a state and operands that meet its hypotheses together, at boundary values -/

/-- DecodeAfterEncode, EncodeAfterDecode: in both directions. -/
theorem witness_encode : (Instr.unknown 0x20 5).wf = true ∧ (Instr.unknown 0x20 5).channel = some .fromDevice ∧
    Instr.ack.wf = true ∧ Instr.ack.channel = some .toDevice ∧ decode .toDevice [0x44] = .ok .ack ∧
    decode .fromDevice [0x20, 0, 0, 5] = .ok (.unknown 0x20 5) := by decide

/-- GroupClassDecidedByTag: the tags next to the five named ones fall under the last clause. -/
theorem witness_tags : ∀ t ∈ [0x14, 0x16, 0x1A, 0x1C, 0x20, 0x00, 0xFF],
    t ≠ (0x1B : Byte) ∧ t ≠ 0x1D ∧ t ≠ 0x1E ∧ t ≠ 0x1F ∧ t ≠ 0x15 := by decide

/-- EncodeReturnsTheFrame, AckByteReturnsItsConstant, HostWritesChangeNoRegister, InitEmptiesTheSession, IdleWaits. -/
theorem witness_idle : (idleState []).fault = none ∧ (idleState []).ctl = .idle ∧ (idleState []).hostQueue = [] := by decide

/-- HostReadChangesNoRegister. -/
theorem witness_hostRead : (idleState [.bulkRead]).fault = none ∧ (idleState [.bulkRead]).ctl = .idle ∧
    (idleState [.bulkRead]).hostQueue = .bulkRead :: [] := by decide

/-- StepRunsTheHostsRequest: a request and a write of a frame. -/
theorem witness_request :
    (idleState [.receive 5 ⟨100, 5⟩]).hostQueue = .receive 5 ⟨100, 5⟩ :: [] ∧
    requested (.receive 5 ⟨100, 5⟩) = some (.receive 5 ⟨100, 5⟩) ∧ requested (.write [0x44]) = some .ack := by decide

/-- ReceiveBeforeInitFaults. -/
theorem witness_beforeInit : State.reset.fault = none ∧ State.reset.ctl = .idle ∧ State.reset.sessInit = false := by decide

/-- ReceiveRefusesAShortRegion: one byte short. -/
theorem witness_shortRegion : (idleState []).fault = none ∧ (idleState []).ctl = .idle ∧ (idleState []).sessInit = true ∧
    (⟨100, 4⟩ : OutRegion).len < (5 : Size).toNat := by decide

/-- ReceiveStartsATransfer: a region of exactly `req` bytes, in an exhausted session and in one with 4 bytes left. -/
theorem witness_receive : (idleState []).sessInit = true ∧ (5 : Size).toNat ≤ (⟨100, 5⟩ : OutRegion).len ∧
    (idleState []).valid ≤ (idleState []).consumed ∧
    ({ idleState [] with valid := 4 } : State).consumed < ({ idleState [] with valid := 4 } : State).valid := by decide

/-- NoMoveOutsideItsPhase: each clause. -/
theorem witness_noMove : (busyState .refill (tr .waitingForSize 5 0 0) 0 []).fault = none ∧
    (busyState .refill (tr .waitingForSize 5 0 0) 0 []).ctl = .busy .refill (tr .waitingForSize 5 0 0) ∧
    Instr.init.channel = none ∧ (Instr.endMark 0).channel = some .fromDevice := by decide

/-- MatchingSizeStartsReceiving: the least and the greatest length that can be announced. -/
theorem witness_size : (dsp .waitingForSize 0 0).ctl = .busy .scan (tr .waitingForSize 0 0 8) ∧
    (0 : BitVec 16).toNat = (0 : Size).toNat ∧ (0xFFFF : BitVec 16).toNat = (0xFFFF : Size).toNat := by decide

/-- IgnoredGroupsOnlyAdvance: one witness for each row, SIZE by a wrong length and by a wrong state. -/
theorem witness_ignored :
    Ignored (.sizeAnnounce 0 6) (tr .waitingForSize 5 0 8) ∧ Ignored (.sizeAnnounce 0 5) (tr .waitingForEnd 5 5 8) ∧
    Ignored (.data1 0 0) (tr .waitingForEnd 3 3 8) ∧ Ignored (.data2 0 0 0) (tr .waitingForSize 3 0 8) ∧
    Ignored (.data3 0 0 0) (tr .waitingForSize 3 0 8) ∧ Ignored (.endMark 0) (tr .receiving 5 2 8) ∧
    Ignored (.unknown 0x1C 0) (tr .receiving 5 2 8) := by
  simp [Ignored, tr]

/-- FittingChunkIsStored: a chunk that ends one byte before `req` and one that ends at it. -/
theorem witness_fits : (dsp .receiving 5 3).fault = none ∧ (dsp .receiving 5 3).ctl = .busy .scan (tr .receiving 5 3 8) ∧
    chunkOf (.data1 7 0) = some [7] ∧ 3 + [(7 : Byte)].length + 1 = (5 : Size).toNat ∧
    chunkOf (.data2 7 8 0) = some [7, 8] ∧ 3 + [(7 : Byte), 8].length = (5 : Size).toNat := by decide

/-- OverflowingChunkAborts: one byte too many. -/
theorem witness_overflows : (dsp .receiving 5 3).ctl = .busy .scan (tr .receiving 5 3 8) ∧
    chunkOf (.data3 7 8 9) = some [7, 8, 9] ∧ (5 : Size).toNat + 1 = 3 + [(7 : Byte), 8, 9].length := by decide

/-- EndRecordsThePosition. -/
theorem witness_end : (dsp .waitingForEnd 5 5).fault = none ∧
    (dsp .waitingForEnd 5 5).ctl = .busy .scan (tr .waitingForEnd 5 5 8) ∧ (tr .waitingForEnd 5 5 8).tstate = .waitingForEnd := by
  decide

/-- A block in an ack phase or a refill, with the transport's next answers. -/
def wired (ph : OpPhase) (x : Transfer) (reads : List ReadAnswer) (writes : List WriteAnswer) : State :=
  { busyState ph x 0 [] with readAnswers := reads, writeAnswers := writes }

/-- TimeoutAckGoesBackToRefill, CompletionAckGoesOnScanning, FinalAckReturns, StepWritesTheDueAck: both answers. -/
theorem witness_acks : ∀ ph ∈ [OpPhase.timeoutAck, .completeAck, .finalAck],
    (wired ph (tr .waitingForEnd 1 1 0) [] [.ok]).fault = none ∧
    (wired ph (tr .waitingForEnd 1 1 0) [] [.ok]).ctl = .busy ph (tr .waitingForEnd 1 1 0) ∧
    nextWriteAnswer (wired ph (tr .waitingForEnd 1 1 0) [] [.ok]) = .ok ∧
    nextWriteAnswer (wired ph (tr .waitingForEnd 1 1 0) [] [.err code]) = .err code := by decide

/-- PhysicalReadFillsTheBuffer and OverlongReadFaults: an empty read, one of CAP bytes and one of CAP + 1. -/
theorem witness_read : (wired .refill (tr .waitingForSize 4 0 0) [.ok []] []).ctl = .busy .refill (tr .waitingForSize 4 0 0) ∧
    nextReadAnswer (wired .refill (tr .waitingForSize 4 0 0) [.ok []] []) = .ok [] ∧
    (List.replicate 16 (0 : Byte)).length = (wired .refill (tr .waitingForSize 4 0 0) [] []).cfg.cap ∧
    (wired .refill (tr .waitingForSize 4 0 0) [] []).cfg.cap < (List.replicate 17 (0 : Byte)).length := by decide

/-- ReadTimeoutCountsAndAcks: with a limit of 2, the third timeout and the second; with none, any. FailedReadAborts. -/
theorem witness_timeout : nextReadAnswer (wired .refill (tr .waitingForSize 4 0 0) [.timeout] []) = .timeout ∧
    (cfg (some 2) .exhaust).retryLimit = some 2 ∧ 2 < ({ tr .waitingForSize 4 0 0 with tries := 2 } : Transfer).tries + 1 ∧
    ({ tr .waitingForSize 4 0 0 with tries := 1 } : Transfer).tries + 1 ≤ 2 ∧ (cfg none .exhaust).retryLimit = none ∧
    nextReadAnswer (wired .refill (tr .waitingForSize 4 0 0) [.err code] []) = .err code := by decide

/-- EndOfPassRefills and PartialTrailingGroupFaults: the cursor at `valid`, and 1 and 3 bytes before it. -/
theorem witness_passEnd : (busyState .scan (tr .receiving 5 0 4) 0 [0, 0, 0, 0]).valid = 4 ∧
    (busyState .scan (tr .receiving 5 0 4) 0 [0, 0, 0, 0]).ctl = .busy .scan (tr .receiving 5 0 4) ∧
    (busyState .scan (tr .receiving 5 0 4) 0 [0, 0, 0, 0, 1]).valid = 5 ∧
    (busyState .scan (tr .receiving 5 0 4) 0 [0, 0, 0, 0, 1, 2, 3]).valid + 1 = 4 + 4 := by decide

/-- FaultIsSticky: each kind. -/
theorem witness_faulted : ∀ k ∈ [FaultKind.sessionUninitialised, .transportOverrun, .partialGroup],
    (State.reset.raiseFault k).fault = some k := by decide

/-- StepRunsTheGroupAtTheCursor: the last whole group of the buffer. -/
theorem witness_group : let s := busyState .scan (tr .receiving 5 0 0) 0 [0x1D, 7, 0, 0]
    s.fault = none ∧ s.ctl = .busy .scan (tr .receiving 5 0 0) ∧ 0 + 4 ≤ s.valid ∧ s.raw.read 0 = some 0x1D ∧
      s.raw.read 1 = some 7 ∧ s.raw.read 2 = some 0 ∧ s.raw.read 3 = some 0 ∧
      decode .fromDevice [0x1D, 7, 0, 0] = .ok (.data1 7 0) := by decide

/-! ### States that meet the invariant -/

/-- A RECEIVE of 1 byte about to read, a whole transfer in its only read and both acks answered. -/
def small : State :=
  wired .refill (tr .waitingForSize 1 0 0) [.ok [0x1B, 0, 0, 1, 0x1D, 0x5A, 0, 0, 0x15, 0, 0, 0]] [.ok, .ok]

theorem small_inv : small.Inv := inv_busy (x := tr .waitingForSize 1 0 0) rfl (by decide) (by decide) (by decide)

/-- The same RECEIVE at its DATA group. -/
def atData : State := busyState .scan (tr .receiving 1 0 4) 0 [0x1B, 0, 0, 1, 0x1D, 0x5A, 0, 0]

theorem atData_inv : atData.Inv := inv_busy (x := tr .receiving 1 0 4) rfl (by decide) (by decide) (by decide)

/-- StepKeepsTheInvariant and ConsumedStaysAMultipleOfFour: a step that stores a byte. -/
theorem witness_invariant : atData.Inv ∧ atData.consumed % 4 = 0 ∧ ∃ t, step atData = .next t ∧ t.hostMem = [(100, 0x5A)] :=
  ⟨atData_inv, rfl, next_with (by decide)⟩

/-- ConfigurationIsFixed, OnlyAPhysicalReadWritesRaw and SessionIsWrittenOnlyAsListed (`valid`): a step that writes `raw`. -/
theorem witness_raw : ∃ t, step small = .next t ∧ t.raw ≠ small.raw ∧ t.valid ≠ small.valid := next_with (by decide)

/-- SessionIsWrittenOnlyAsListed (`sess_init`, and `consumed` by INIT). -/
theorem witness_init : ∃ t, step { idleState [.init] with sessInit := false, consumed := 4, valid := 4 } = .next t ∧
    t.sessInit ≠ false ∧ t.consumed ≠ 4 ∧ t.valid ≠ 4 := next_with (by decide)

/-- SessionIsWrittenOnlyAsListed (`consumed`): by a read, by the end of a pass, by done and by an abort. -/
theorem witness_consumed :
    (∃ t, step { wired .refill (tr .waitingForSize 1 0 0) [.ok []] [] with consumed := 4, valid := 4 } = .next t ∧
      t.consumed ≠ 4) ∧
    (∃ t, step (busyState .scan (tr .receiving 5 0 4) 0 [0, 0, 0, 0]) = .next t ∧ t.consumed ≠ 0) ∧
    (∃ t, step (busyState .scan (tr .waitingForEnd 5 5 0) 0 [0x15, 0, 0, 0]) = .next t ∧ t.consumed ≠ 0) ∧
    ∃ t, step (busyState .scan (tr .receiving 0 0 0) 0 [0x1D, 0, 0, 0]) = .next t ∧ t.consumed ≠ 0 :=
  ⟨next_with (by decide), next_with (by decide), next_with (by decide), next_with (by decide)⟩

/-- OutWritesStayBelowReq and OutIndicesRise: a step that stores the last byte of the region. -/
theorem witness_out : atData.Inv ∧ ∃ t, step atData = .next t ∧ t.hostMem.read 100 ≠ atData.hostMem.read 100 ∧
    t.ctl = .busy .completeAck (tr .waitingForEnd 1 1 4) := ⟨atData_inv, next_with (by decide)⟩

/-- OkOnlyThroughTheFinalAck: a return with Ok and one with an error. -/
theorem witness_returns :
    (∃ t, step (wired .finalAck (tr .waitingForEnd 1 1 0) [] [.ok]) = .next t ∧ t.ctl = .idle ∧
      t.result = some (.ok 1)) ∧
    ∃ t, step (wired .refill (tr .waitingForSize 1 0 0) [.err code] []) = .next t ∧ t.ctl = .idle ∧
      t.result = some (.err (.transport code)) := ⟨next_with (by decide), next_with (by decide)⟩

/-- ResultIsHandedOverOnce: each kind of return. -/
theorem witness_result :
    (∃ t, step (idleState [.encode 0 0]) = .next t ∧ t.result = some (.frame [0x43, 0, 0, 0, 0x43, 0, 0, 0, 0x42, 0, 0])) ∧
    (∃ t, step (idleState [.ackByte]) = .next t ∧ t.result = some (.byte 0x44)) ∧
    (wired .finalAck (tr .waitingForEnd 1 1 0) [] [.ok]).Inv ∧
    ∃ t, step (wired .finalAck (tr .waitingForEnd 1 1 0) [] [.ok]) = .next t ∧ t.result = some (.ok 1) :=
  ⟨next_with (by decide), next_with (by decide),
    inv_busy (x := tr .waitingForEnd 1 1 0) rfl (by decide) (by decide) (by decide), next_with (by decide)⟩

/-- ReadsOnlyWhenExhausted: a step that reads. OneCallAStepAndOnlyAcks: a step that writes an ack. -/
theorem witness_calls : (small.Inv ∧ ∃ t, step small = .next t ∧
      t.calls = small.calls ++ [.framerRead 2 16 1000 (nextReadAnswer small)]) ∧
    ∃ t, step (wired .finalAck (tr .waitingForEnd 1 1 0) [] [.ok]) = .next t ∧
      t.calls = [] ++ [.framerWrite 1 [0x44] 1000 .ok] := ⟨⟨small_inv, next_with (by decide)⟩, next_with (by decide)⟩

/-- ZeroByteReceiveNeverSucceeds: SIZE(0) matches a `req` of 0, and a DATA chunk then overflows. -/
theorem witness_zero :
    (busyState .scan (tr .waitingForSize 0 0 0) 0 [0x1B, 0, 0, 0]).Inv ∧ (tr .waitingForSize 0 0 0).req = 0 ∧
    (∃ t, step (busyState .scan (tr .waitingForSize 0 0 0) 0 [0x1B, 0, 0, 0]) = .next t ∧
      t.ctl = .busy .scan (tr .receiving 0 0 4)) ∧
    ∃ t, step (busyState .scan (tr .receiving 0 0 0) 0 [0x1D, 0, 0, 0]) = .next t ∧ t.result = some (.err .overflow) :=
  ⟨inv_busy (x := tr .waitingForSize 0 0 0) rfl (by decide) (by decide) (by decide), rfl, next_with (by decide),
    next_with (by decide)⟩

/-- OversizeReceiveNeverMatches: the least such `req` against the greatest announcement. -/
theorem witness_oversize :
    (busyState .scan (tr .waitingForSize 0x10000 0 0) 0 [0x1B, 0, 0xFF, 0xFF]).Inv ∧
    0xFFFF < (tr .waitingForSize 0x10000 0 0).req.toNat ∧
    ∃ t, step (busyState .scan (tr .waitingForSize 0x10000 0 0) 0 [0x1B, 0, 0xFF, 0xFF]) = .next t ∧
      t.ctl = .busy .scan (tr .waitingForSize 0x10000 0 4) :=
  ⟨inv_busy (x := tr .waitingForSize 0x10000 0 0) rfl (by decide) (by decide) (by decide), by decide, next_with (by decide)⟩

/-- An idle state meets the invariant, whatever its fault register holds. -/
theorem idle_inv (q : List HostAction) (f : Option FaultKind) : ({ idleState q with fault := f } : State).Inv where
  legal := show (cfg none .exhaust).Legal by decide
  rawWf := List.Pairwise.nil
  hostWf := List.Pairwise.nil
  rawBound := fun c h => nomatch h
  rawWritten := fun i h => absurd h (Nat.not_lt_zero i)
  offsets := ⟨Nat.le_refl _, Nat.zero_le _⟩
  stride := .inl rfl
  pending := fun _ _ h => nomatch h
  session := fun _ _ h => nomatch h
  transfer := fun _ _ h => nomatch h
  phase := fun _ _ h => nomatch h

/-- StepsStopOnlyAsNamed: a fault, and each of the two refusals. -/
theorem witness_stops :
    (State.Inv { idleState [] with fault := some .partialGroup } ∧
      faultOf (step { idleState [] with fault := some .partialGroup }) = some (.halted .partialGroup)) ∧
    ((idleState [.receive 5 ⟨100, 4⟩]).Inv ∧
      refusalOf (step (idleState [.receive 5 ⟨100, 4⟩])) = some .outRegionTooSmall) ∧
    (idleState [.write [0x45]]).Inv ∧ refusalOf (step (idleState [.write [0x45]])) = some .hostWriteRejected :=
  ⟨⟨idle_inv [] (some .partialGroup), by decide⟩, ⟨idle_inv [.receive 5 ⟨100, 4⟩] none, by decide⟩,
    idle_inv [.write [0x45]] none, by decide⟩

/-- ReassemblyLaw and SuccessCostsTwoAcks: the small RECEIVE returns Ok(1) after six steps. -/
theorem witness_reassembly : small.Inv ∧ small.ctl = .busy .refill (tr .waitingForSize 1 0 0) ∧ insideReceive 6 small ∧
    ∃ t, Sys2Proof.core.run 6 small = .next t ∧ t.ctl = .idle ∧ t.result = some (.ok 1) :=
  ⟨small_inv, rfl, inside_of_check (by decide), next_with (by decide)⟩

/-- WellFormedStreamIsReceived: the same stream, as the statement builds it. -/
theorem witness_stream : small.fault = none ∧ small.ctl = .busy .refill (tr .waitingForSize 1 0 0) ∧
    (1 : BitVec 16).toNat = (1 : Size).toNat ∧ (1 : Size) ≠ 0 ∧ (∀ i ∈ [Instr.data1 0x5A 0], (chunkOf i).isSome) ∧
    ([Instr.data1 0x5A 0].flatMap fun i => (chunkOf i).getD []).length = (1 : Size).toNat ∧
    4 * [Instr.data1 0x5A 0].length + 8 ≤ small.cfg.cap ∧
    small.readAnswers = [.ok (encode (.sizeAnnounce 0 1) ++ [Instr.data1 0x5A 0].flatMap encode ++ encode (.endMark 0))] ∧
    small.writeAnswers = [.ok, .ok] := by decide

end Sys2Proof.Tests
end

