-- ==== Sys2Proof/Proofs/Scope.lean ====
section
/-! PROOFS. The invariant holds at reset and every step keeps it; no step changes a parameter; what a step puts on the record of
transport calls. The shared operations of Machine/Ops.lean are taken one by one, then the steps that are made of them. -/

namespace Sys2Proof.Machine

variable {s t : State} {ph : OpPhase} {x y : Transfer}

/-! ## The transfer registers (R29, R33, R55) -/

theorem startTransfer_inv {c : Config} {req : Size} {out : OutRegion} (hl : req.toNat ≤ out.len) (s : State) :
    TransferInv c (startTransfer req out s) where
  region := hl
  bounded := Nat.zero_le _
  unstarted _ := rfl
  unfinished e := nomatch e
  finished e := nomatch e
  retries _ _ := Nat.zero_le _

/-- No clause on the transfer registers speaks of the cursor. -/
theorem TransferInv.setCursor {c : Config} (h : TransferInv c x) (p : Nat) : TransferInv c { x with p := p } :=
  { h with }

theorem TransferInv.setTries {c : Config} (h : TransferInv c x) {n : Nat} (hn : ∀ l, c.retryLimit = some l → n ≤ l) :
    TransferInv c { x with tries := n } :=
  { h with retries := hn }

/-- R162: a matching announcement starts the transfer with nothing written. -/
theorem TransferInv.announce {c : Config} (h : TransferInv c x) :
    TransferInv c { x with tstate := .receiving, written := 0 } where
  region := h.region
  bounded := Nat.zero_le _
  unstarted e := nomatch e
  unfinished _ := by
    by_cases hr : x.req = 0
    · exact .inr hr
    · exact .inl (Nat.pos_of_ne_zero fun h0 => hr (BitVec.eq_of_toNat_eq h0))
  finished e := nomatch e
  retries := h.retries

/-- R165: a chunk that leaves bytes to come. -/
theorem TransferInv.count {c : Config} (h : TransferInv c x) (hx : x.tstate = .receiving) {n : Nat}
    (hn : x.written + n < x.req.toNat) : TransferInv c { x with written := x.written + n } where
  region := h.region
  bounded := hn.le
  unstarted e := nomatch hx.symm.trans e
  unfinished _ := .inl hn
  finished e := nomatch hx.symm.trans e
  retries := h.retries

/-- R165: the chunk that completes the transfer; it is not empty, so `req` is not 0. -/
theorem TransferInv.complete {c : Config} (h : TransferInv c x) {n : Nat} (hpos : 1 ≤ n)
    (hn : x.written + n = x.req.toNat) :
    TransferInv c { x with written := x.written + n, tstate := .waitingForEnd } where
  region := h.region
  bounded := hn.le
  unstarted e := nomatch e
  unfinished e := nomatch e
  finished _ := ⟨hn, fun (h0 : x.req = 0) => by simp [h0] at hn; omega⟩
  retries := h.retries

/-! ## What each shared operation asks for to keep the invariant -/

/-- In an Idle block the invariant speaks of the two memories and the two offsets only. -/
theorem State.Inv.of_idle (h : s.Inv) (hc : t.ctl = .idle) (hcfg : t.cfg = s.cfg) (hraw : t.raw = s.raw)
    (hmem : t.hostMem = s.hostMem) (hv : t.valid ≤ s.valid) (hle : t.consumed ≤ t.valid)
    (hst : t.consumed % 4 = 0 ∨ t.consumed = t.valid) : t.Inv where
  legal := hcfg ▸ h.legal
  rawWf := hraw ▸ h.rawWf
  hostWf := hmem ▸ h.hostWf
  rawBound := by rw [hraw, hcfg]; exact h.rawBound
  rawWritten i hi := by rw [hraw]; exact h.rawWritten i (hi.trans_le hv)
  offsets := ⟨hle, hcfg ▸ hv.trans h.offsets.2⟩
  stride := hst
  pending ph x e := by simp [hc] at e
  session ph x e := by simp [hc] at e
  transfer ph x e := by simp [hc] at e
  phase ph x e := by simp [hc] at e

/-- A phase of a RECEIVE may be entered, with the offset at the end of the buffer or at a group boundary below it. -/
theorem State.Inv.enter (h : s.Inv) {k : Nat} (hle : k ≤ s.valid) (hst : k % 4 = 0 ∨ k = s.valid)
    (hr : s.result = none) (hi : s.sessInit = true) (ht : TransferInv s.cfg y)
    (hp : PhaseInv { s with consumed := k } ph y) : State.Inv { s with consumed := k, ctl := .busy ph y } :=
  { h with
    offsets := ⟨hle, h.offsets.2⟩
    stride := hst
    pending := fun _ _ _ => hr
    session := fun _ _ _ => hi
    transfer := fun _ _ e => by cases e; exact ht
    phase := fun _ _ e => by cases e; exact hp }

theorem State.Inv.goTo (h : s.Inv) (hr : s.result = none) (hi : s.sessInit = true) (ht : TransferInv s.cfg y)
    (hp : PhaseInv s ph y) : (s.goTo ph y).Inv :=
  h.enter h.offsets.1 h.stride hr hi ht hp

/-- The same from inside a RECEIVE, where the session is initialised and no result is held. -/
theorem State.Inv.goTo_of_busy (h : s.Inv) (hc : s.ctl = .busy ph x) {ph' : OpPhase} (ht : TransferInv s.cfg y)
    (hp : PhaseInv s ph' y) : (s.goTo ph' y).Inv :=
  h.goTo (h.pending ph x hc) (h.session ph x hc) ht hp

/-- R147: an abort leaves the offset in order, because a group at the cursor ends below `valid`. -/
theorem State.Inv.abort (h : s.Inv) (hc : s.ctl = .busy ph x) (hg : ph = .scan → x.p + 4 ≤ s.valid) (e : RxError) :
    (s.abort ph x e).Inv := by
  have hk : abortOffset s ph x ≤ s.valid ∧ (abortOffset s ph x % 4 = 0 ∨ abortOffset s ph x = s.valid) := by
    obtain ek | ⟨hph, ek | ek⟩ := abortOffset_cases s ph x
    · exact ek ▸ ⟨h.offsets.1, h.stride⟩
    · exact ek ▸ ⟨le_rfl, .inr rfl⟩
    · rw [ek]
      obtain rfl | rfl := hph
      · obtain ⟨-, -, h4⟩ := h.phase _ x hc
        exact ⟨hg rfl, .inl (by omega)⟩
      · obtain ⟨-, hp, h4, -⟩ := h.phase _ x hc
        exact ⟨hp, .inl (by omega)⟩
  exact h.of_idle rfl rfl rfl rfl le_rfl hk.1 hk.2

theorem State.Inv.returnWith (h : s.Inv) (r : Result) : (s.returnWith r).Inv :=
  h.of_idle rfl rfl rfl rfl le_rfl h.offsets.1 h.stride

theorem State.Inv.raiseFault (h : s.Inv) (k : FaultKind) : (s.raiseFault k).Inv := { h with }

theorem State.Inv.afterRead (h : s.Inv) (c : TransportCall) : (s.afterRead c).Inv := { h with }

theorem State.Inv.afterWrite (h : s.Inv) (c : TransportCall) : (s.afterWrite c).Inv := { h with }

theorem State.Inv.emit (h : s.Inv) (k : DiagKind) (p v : Nat) : (s.emit k p v).Inv := { h with }

theorem State.Inv.storeChunk (h : s.Inv) (x : Transfer) (bs : List Byte) : (s.storeChunk x bs).Inv :=
  { h with hostWf := outWrites_wf h.hostWf _ _ _ }

/-- The host's request is off its list, and the host has the last result. -/
theorem State.Inv.takeRequest (h : s.Inv) (rest : List HostAction) :
    State.Inv { s.handOver with hostQueue := rest } :=
  { h with pending := fun _ _ _ => rfl }

/-! ## The dispatch of a group (R143, R145) -/

section Group

variable (h : s.Inv) (hc : s.ctl = .busy .scan x) (hp : x.p + 4 ≤ s.valid)
include h hc hp

/-- R143: the cursor passes the group; whatever else the transfer registers hold, they keep to their clauses. -/
theorem nextGroup_inv (ht : TransferInv s.cfg y) (hy : y.p = x.p) : (s.nextGroup y).Inv := by
  obtain ⟨hle, -, h4⟩ := h.phase _ x hc
  refine h.goTo_of_busy hc (ht.setCursor _) ⟨?_, ?_, ?_⟩ <;> simp only [hy] <;> omega

/-- R161: a group that is logged and ignored. -/
theorem ignored_inv (k : DiagKind) (v : Nat) : ((s.emit k x.p v).nextGroup x).Inv :=
  nextGroup_inv (h.emit k x.p v) hc hp (h.transfer _ x hc) rfl

theorem sizeStep_inv (len : BitVec 16) : (sizeStep len s x).Inv := by
  obtain ⟨-, -, e⟩ | ⟨-, k, v, e⟩ := sizeStep_cases len s x
  · exact e ▸ nextGroup_inv h hc hp (h.transfer _ x hc).announce rfl
  · exact e ▸ ignored_inv h hc hp k v

theorem dataStep_inv (tag : Byte) {bs : List Byte} (hb : 1 ≤ bs.length) : (dataStep tag bs s x).Inv := by
  have ht := h.transfer _ x hc
  obtain ⟨-, -, e⟩ | ⟨-, hn, e⟩ | ⟨hx, hn, e⟩ | ⟨-, e⟩ := dataStep_cases tag bs s x
  · exact e ▸ h.abort hc (fun _ => hp) .overflow
  · obtain ⟨hle, -, h4⟩ := h.phase _ x hc
    exact e ▸ (h.storeChunk x bs).goTo_of_busy hc (ht.complete hb hn) ⟨hle, hp, h4, rfl⟩
  · exact e ▸ nextGroup_inv (h.storeChunk x bs) hc hp (ht.count hx hn) rfl
  · exact e ▸ ignored_inv h hc hp _ _

theorem endStep_inv : (endStep s x).Inv := by
  obtain ⟨hx, e⟩ | ⟨-, e⟩ := endStep_cases s x
  · obtain ⟨-, -, h4⟩ := h.phase _ x hc
    exact e ▸ h.enter hp (.inl (by omega)) (h.pending _ x hc) (h.session _ x hc) (h.transfer _ x hc) hx
  · exact e ▸ ignored_inv h hc hp _ _

theorem GroupRun.inv (hr : GroupRun s x t) : t.Inv := by
  cases hr with
  | size len => exact sizeStep_inv h hc hp len
  | data tag bs hb _ => exact dataStep_inv h hc hp tag hb
  | endMark => exact endStep_inv h hc hp
  | unknown t => exact ignored_inv h hc hp _ _

end Group

/-! ## Physical reads, acks and the end of a pass (R134 to R146) -/

/-- R135: the cells below the new `valid` are the bytes just stored. -/
theorem fillBuffer_inv (h : s.Inv) (hc : s.ctl = .busy ph x) {bs : List Byte} (hb : bs.length ≤ s.cfg.cap) :
    (fillBuffer s x bs).Inv :=
  { h with
    rawWf := writeBlock_wf h.rawWf 0 bs
    rawBound := fun c hm => by
      obtain hm | hm := mem_writeBlock hm
      · exact h.rawBound c hm
      · exact (Nat.zero_add bs.length ▸ hm.2).trans_le hb
    rawWritten := fun i (hi : i < bs.length) => by simp [fillBuffer, read_writeBlock, hi]
    offsets := ⟨Nat.zero_le _, hb⟩
    stride := .inl rfl
    pending := fun _ _ _ => h.pending ph x hc
    session := fun _ _ _ => h.session ph x hc
    transfer := fun _ _ e => by cases e; exact (h.transfer ph x hc).setCursor 0
    phase := fun _ _ e => by cases e; exact ⟨le_rfl, Nat.zero_le _, rfl⟩ }

theorem refillStep_inv (h : s.Inv) (hc : s.ctl = .busy .refill x) : (refillStep s x).Inv := by
  have hr : s.physicalRead.Inv := h.afterRead _
  obtain ⟨bs, -, -, e⟩ | ⟨bs, -, hb, e⟩ | ⟨-, -, e⟩ | ⟨-, hl, e⟩ | ⟨c, -, e⟩ := refillStep_cases s x
  · exact e ▸ hr.raiseFault .transportOverrun
  · exact e ▸ fillBuffer_inv hr hc hb
  · exact e ▸ hr.abort hc nofun .timeout
  · exact e ▸ hr.goTo_of_busy hc ((h.transfer _ x hc).setTries hl) (h.phase _ x hc)
  · exact e ▸ hr.abort hc nofun (.transport c)

theorem timeoutAckStep_inv (h : s.Inv) (hc : s.ctl = .busy .timeoutAck x) : (timeoutAckStep s x).Inv := by
  have ha : s.ackWrite.Inv := h.afterWrite _
  obtain ⟨-, e⟩ | ⟨c, -, e⟩ := timeoutAckStep_cases s x
  · exact e ▸ ha.goTo_of_busy hc (h.transfer _ x hc) (h.phase _ x hc)
  · exact e ▸ ha.abort hc nofun (.transport c)

theorem completeAckStep_inv (h : s.Inv) (hc : s.ctl = .busy .completeAck x) : (completeAckStep s x).Inv := by
  have ha : s.ackWrite.Inv := h.afterWrite _
  obtain ⟨-, e⟩ | ⟨c, -, e⟩ := completeAckStep_cases s x
  · obtain ⟨hle, hp, h4, -⟩ := h.phase _ x hc
    exact e ▸ ha.goTo_of_busy hc ((h.transfer _ x hc).setCursor _)
      ⟨Nat.le_add_right_of_le hle, hp, (Nat.add_mod_right x.p 4).trans h4⟩
  · exact e ▸ ha.abort hc nofun (.transport c)

theorem finalAckStep_inv (h : s.Inv) : (finalAckStep s x).Inv := by
  have ha : s.ackWrite.Inv := h.afterWrite _
  obtain ⟨-, e⟩ | ⟨c, -, e⟩ := finalAckStep_cases s x
  · exact e ▸ ha.returnWith (.ok x.req)
  · exact e ▸ ha.returnWith (.err (.transport c))

theorem endPassStep_inv (h : s.Inv) (hc : s.ctl = .busy .scan x) : (endPassStep s x).Inv :=
  h.enter le_rfl (.inr rfl) (h.pending _ x hc) (h.session _ x hc)
    ((h.transfer _ x hc).setTries fun _ _ => Nat.zero_le _) rfl

/-! ## Every step -/

theorem StepTo.inv (h : s.Inv) (hs : StepTo s t) : t.Inv := by
  cases hs with
  | wait _ _ => exact h.takeRequest s.hostQueue
  | init rest hc _ => exact h.of_idle hc rfl rfl rfl (Nat.zero_le _) le_rfl (.inl rfl)
  | encode cmd arg rest _ _ => exact (h.takeRequest rest).returnWith _
  | ackByte rest _ _ => exact (h.takeRequest rest).returnWith _
  | receiveFault req out rest _ _ _ => exact (h.takeRequest rest).raiseFault _
  | receiveRefill req out rest _ _ hi hl he =>
    exact (h.takeRequest rest).goTo rfl hi (startTransfer_inv hl s) (h.offsets.1.antisymm he)
  | receiveScan req out rest _ _ hi hl he =>
    exact (h.takeRequest rest).goTo rfl hi (startTransfer_inv hl s)
      ⟨le_rfl, he.le, h.stride.resolve_right he.ne⟩
  | hostWrite bytes sent rest _ _ => exact (h.takeRequest rest).afterWrite _
  | hostRead rest _ _ => exact (h.takeRequest rest).afterRead _
  | refill x hc => exact refillStep_inv h hc
  | timeoutAck x hc => exact timeoutAckStep_inv h hc
  | completeAck x hc => exact completeAckStep_inv h hc
  | finalAck x _ => exact finalAckStep_inv h
  | endPass x hc _ => exact endPassStep_inv h hc
  | partialGroup x _ _ _ => exact h.raiseFault _
  | group x g hc hp _ _ hr => exact hr.inv h hc hp

/-- Settles O37: a step is one of the cases of `StepTo`, and each is made of operations that keep the invariant. -/
theorem stepKeepsTheInvariant : Obligations.StepKeepsTheInvariant := by
  intro s t h hs
  obtain ⟨-, hst⟩ := step_cases hs
  exact hst.inv h

/-! ## What a step leaves unchanged, and what it puts on the record of calls -/

/-- R165, R173: a group writes neither the parameters nor the buffer, and calls nobody. -/
theorem GroupRun.frame (hr : GroupRun s x t) :
    t.cfg = s.cfg ∧ t.raw = s.raw ∧ t.valid = s.valid ∧ t.sessInit = s.sessInit ∧ t.calls = s.calls := by
  cases hr with
  | size len => obtain ⟨-, -, e⟩ | ⟨-, k, v, e⟩ := sizeStep_cases len s x <;> simp [e]
  | data tag bs _ _ =>
    obtain ⟨-, -, e⟩ | ⟨-, -, e⟩ | ⟨-, -, e⟩ | ⟨-, e⟩ := dataStep_cases tag bs s x <;> simp [e]
  | endMark => obtain ⟨-, e⟩ | ⟨-, e⟩ := endStep_cases s x <;> simp [e]
  | unknown t => simp

/-- R134: a refill makes one physical read, and changes no parameter. -/
theorem refillStep_frame (s : State) (x : Transfer) :
    (refillStep s x).cfg = s.cfg ∧ (refillStep s x).calls = s.physicalRead.calls := by
  obtain ⟨bs, -, -, e⟩ | ⟨bs, -, -, e⟩ | ⟨-, -, e⟩ | ⟨-, -, e⟩ | ⟨c, -, e⟩ := refillStep_cases s x <;>
    simp [e, fillBuffer]

/-- R141: each of the three ack phases makes one ack write, and changes no parameter. -/
theorem timeoutAckStep_frame (s : State) (x : Transfer) :
    (timeoutAckStep s x).cfg = s.cfg ∧ (timeoutAckStep s x).calls = s.ackWrite.calls := by
  obtain ⟨-, e⟩ | ⟨c, -, e⟩ := timeoutAckStep_cases s x <;> simp [e]

theorem completeAckStep_frame (s : State) (x : Transfer) :
    (completeAckStep s x).cfg = s.cfg ∧ (completeAckStep s x).calls = s.ackWrite.calls := by
  obtain ⟨-, e⟩ | ⟨c, -, e⟩ := completeAckStep_cases s x <;> simp [e]

theorem finalAckStep_frame (s : State) (x : Transfer) :
    (finalAckStep s x).cfg = s.cfg ∧ (finalAckStep s x).calls = s.ackWrite.calls := by
  obtain ⟨-, e⟩ | ⟨c, -, e⟩ := finalAckStep_cases s x <;> simp [e]

theorem StepTo.cfg (hs : StepTo s t) : t.cfg = s.cfg := by
  cases hs with
  | refill x _ => exact (refillStep_frame s x).1
  | timeoutAck x _ => exact (timeoutAckStep_frame s x).1
  | completeAck x _ => exact (completeAckStep_frame s x).1
  | finalAck x _ => exact (finalAckStep_frame s x).1
  | group x _ _ _ _ _ hr => exact hr.frame.1
  | _ => rfl

/-- Settles O39: no case of a step writes `cfg`. -/
theorem configurationIsFixed : Obligations.ConfigurationIsFixed :=
  fun _ _ hs => (step_cases hs).2.cfg

/-- R141: the phases in which an ack is due, with the transfer registers they hold. -/
def AckDue (s : State) : Prop :=
  ∃ x, s.ctl = .busy .timeoutAck x ∨ s.ctl = .busy .completeAck x ∨ s.ctl = .busy .finalAck x

/-- R5, R200: what a step puts on the record: nothing, the physical read of a refill, the ack that is due, or a call of the
host's. -/
theorem StepTo.calls (hs : StepTo s t) :
    t.calls = s.calls ∨
    ((∃ x, s.ctl = .busy .refill x) ∧ t.calls = s.physicalRead.calls) ∨
    (AckDue s ∧ t.calls = s.ackWrite.calls) ∨
    (∃ bytes a, t.calls = s.calls ++ [.hostWrite bytes a]) ∨
    ∃ a, t.calls = s.calls ++ [.hostRead a] := by
  cases hs with
  | refill x hc => exact .inr (.inl ⟨⟨x, hc⟩, (refillStep_frame s x).2⟩)
  | timeoutAck x hc => exact .inr (.inr (.inl ⟨⟨x, .inl hc⟩, (timeoutAckStep_frame s x).2⟩))
  | completeAck x hc => exact .inr (.inr (.inl ⟨⟨x, .inr (.inl hc)⟩, (completeAckStep_frame s x).2⟩))
  | finalAck x hc => exact .inr (.inr (.inl ⟨⟨x, .inr (.inr hc)⟩, (finalAckStep_frame s x).2⟩))
  | hostWrite bytes sent rest _ _ => exact .inr (.inr (.inr (.inl ⟨sent, _, rfl⟩)))
  | hostRead rest _ _ => exact .inr (.inr (.inr (.inr ⟨_, rfl⟩)))
  | group x _ _ _ _ _ hr =>
    obtain ⟨-, -, -, -, e⟩ := hr.frame
    exact .inl e
  | _ => exact .inl rfl

/-- Settles O46: of the five things a step can put on the record, only the due ack is a write of the framer's. -/
theorem oneCallAStepAndOnlyAcks : Obligations.OneCallAStepAndOnlyAcks := by
  intro s t hs
  obtain ⟨-, hst⟩ := step_cases hs
  obtain e | ⟨-, e⟩ | ⟨hd, e⟩ | ⟨bytes, r, e⟩ | ⟨r, e⟩ := hst.calls
  · exact ⟨.inl e, fun ep tmo bs a hw => by simp [e] at hw⟩
  · exact ⟨.inr ⟨_, e⟩, fun ep tmo bs a hw => by simp [e] at hw⟩
  · refine ⟨.inr ⟨_, e⟩, fun ep tmo bs a hw => ?_⟩
    simp only [e, ackWrite_calls, List.append_cancel_left_eq, List.cons.injEq, TransportCall.framerWrite.injEq] at hw
    obtain ⟨⟨hep, hbs, -, -⟩, -⟩ := hw
    exact ⟨hep.symm, hbs.symm, hd⟩
  · exact ⟨.inr ⟨_, e⟩, fun ep tmo bs a hw => by simp [e] at hw⟩
  · exact ⟨.inr ⟨_, e⟩, fun ep tmo bs a hw => by simp [e] at hw⟩

/-! ## Reset -/

/-- Settles O36: the memories are empty, both offsets are 0 (log 5) and the block is Idle; CAP is R6's default of 4096. -/
theorem resetMeetsTheInvariant : Obligations.ResetMeetsTheInvariant where
  legal := ⟨rfl, by decide⟩
  rawWf := .nil
  hostWf := .nil
  rawBound := nofun
  rawWritten _ h := nomatch h
  offsets := ⟨le_rfl, Nat.zero_le _⟩
  stride := .inl rfl
  pending _ _ h := nomatch h
  session _ _ h := nomatch h
  transfer _ _ h := nomatch h
  phase _ _ h := nomatch h

end Sys2Proof.Machine
end

