-- ==== Sys2Proof/Proofs/State.lean ====
section
/-! PROOFS. The registers of spec/10_state.md: a set fault stops everything (R31), the other ways a step can stop (R21, R244), who
writes the session (R22, R23, R26) and who returns a result (R34). Each is a reading of the inversion `step_cases`. -/

namespace Sys2Proof.Machine

variable {s t : State} {ph : OpPhase} {x : Transfer} {i : Instr}

/-! ## A set fault (R31, R243) -/

section Faulted

variable {k : FaultKind} (hf : s.fault = some k)
include hf

theorem whenIdle_faulted (o : Host.Outcome State Fault Refusal) : whenIdle s o = .fault (.halted k) := by
  simp only [whenIdle, hf]

theorem inScan_faulted (o : Transfer → Host.Outcome State Fault Refusal) : inScan s o = .fault (.halted k) := by
  simp only [inScan, hf]

theorem execAck_faulted : execAck s = .fault (.halted k) := by
  simp only [execAck, hf]

theorem step_faulted : step s = .fault (.halted k) := by
  simp only [step, fetch_faulted hf]

/-- Host operations and frames ask for an Idle block, groups for Scan, and ACK looks at the phase itself: each tests `fault`
first. -/
theorem exec_faulted (i : Instr) : exec i s = .fault (.halted k) := by
  cases i with
  | sizeAnnounce _ _ | data1 _ _ | data2 _ _ _ | data3 _ _ _ | endMark _ | unknown _ _ => exact inScan_faulted hf _
  | cmdFrame _ _ | init | encodeCmd _ _ | ackByte | receive _ _ => exact whenIdle_faulted hf _
  | ack => exact execAck_faulted hf

end Faulted

/-- Settles O30: the step halts at the fetch, and every instruction at its first test. -/
theorem faultIsSticky : Obligations.FaultIsSticky :=
  fun _ _ hf => ⟨step_faulted hf, exec_faulted hf⟩

/-! ## The other stops (R21, R200, R244) -/

theorem requested_write_some {bytes : List Byte} :
    requested (.write bytes) = some i ↔ decode .toDevice bytes = .ok i := by
  cases hd : decode .toDevice bytes <;> simp [requested, hd]

theorem requested_write_none {bytes : List Byte} :
    requested (.write bytes) = none ↔ ∃ e, decode .toDevice bytes = .error e := by
  cases hd : decode .toDevice bytes <;> simp [requested, hd]

/-- R130, R200: a move that asks for an instruction runs it. -/
theorem hostMove_of_requested {a : HostAction} (hr : requested a = some i) (s : State) : hostMove a s = .run i s := by
  cases a with
  | write bytes => simp only [hostMove, requested_write_some.1 hr]
  | bulkRead => cases hr
  | init | encode _ _ | ackByte | receive _ _ => cases hr; rfl

/-- R200, R201: a move that asks for none is the host's own read, or a write that is neither a frame nor an ack (log 15). -/
theorem hostMove_of_requested_none {a : HostAction} (hr : requested a = none) (s : State) :
    hostMove a s = .move s.hostReads ∨ hostMove a s = .refuse .hostWriteRejected := by
  cases a with
  | write bytes =>
    obtain ⟨e, hd⟩ := requested_write_none.1 hr
    exact .inr (by simp only [hostMove, hd])
  | bulkRead => exact .inl rfl
  | init | encode _ _ | ackByte | receive _ _ => cases hr

/-- R130: in an Idle block what the host asks for stops only on a region too short. -/
theorem exec_requested {a : HostAction} (hf : s.fault = none) (hc : s.ctl = .idle) (hr : requested a = some i) :
    (∃ t, exec i s = .next t) ∨ exec i s = .refused .outRegionTooSmall := by
  cases a with
  | init | encode _ _ | ackByte => cases hr; exact .inl ⟨_, whenIdle_eq hf hc _⟩
  | receive req out =>
    cases hr
    simp only [exec, execReceive, whenIdle_eq hf hc]
    split_ifs <;> simp
  | write bytes =>
    obtain rfl | ⟨cmd, arg, rfl⟩ := decode_toDevice (requested_write_some.1 hr)
    · exact .inl ⟨_, execAck_idle hf hc⟩
    · exact .inl ⟨_, whenIdle_eq hf hc _⟩
  | bulkRead => cases hr

theorem exec_decodeGroup_scan (hf : s.fault = none) (hc : s.ctl = .busy .scan x) (g : Group) :
    ∃ t, exec (decodeGroup g) s = .next t := by
  unfold decodeGroup
  split_ifs <;> exact ⟨_, inScan_eq hf hc _⟩

/-- R21: every cell below `valid` is written, so the scan never stops. -/
theorem State.Inv.step_scan (h : s.Inv) (hf : s.fault = none) (hc : s.ctl = .busy .scan x) :
    ∃ t, step s = .next t := by
  obtain ⟨-, e⟩ | ⟨-, -, e⟩ | ⟨hp, hg, -⟩ | ⟨g, -, -, e⟩ := step_scan_cases hf hc
  · exact ⟨_, e⟩
  · exact ⟨_, e⟩
  · obtain ⟨g, hs⟩ := readGroup_isSome fun j hj => h.rawWritten j (hj.trans_le hp)
    cases hg.symm.trans hs
  · exact e ▸ exec_decodeGroup_scan hf hc g

/-- R130, R200, R260: what an Idle block can answer its host. -/
theorem step_idle (hf : s.fault = none) (hc : s.ctl = .idle) :
    (∃ t, step s = .next t) ∨ step s = .refused .outRegionTooSmall ∨ step s = .refused .hostWriteRejected := by
  cases hq : s.hostQueue with
  | nil => exact .inl ⟨s.handOver, by simp only [step, fetch_idle hf hc, fetchHost, hq]⟩
  | cons a rest =>
    simp only [step, fetch_idle hf hc, fetchHost, hq]
    cases hr : requested a with
    | some j =>
      rw [hostMove_of_requested hr]
      exact (exec_requested (s := { s.handOver with hostQueue := rest }) hf hc hr).imp_right .inl
    | none =>
      obtain e | e := hostMove_of_requested_none hr { s.handOver with hostQueue := rest }
      · exact .inl ⟨_, by rw [e]⟩
      · exact .inr (.inr (by rw [e]))

/-- Without a fault a step goes on, or refuses one of two moves of the host. -/
theorem State.Inv.step_total (h : s.Inv) (hf : s.fault = none) :
    (∃ t, step s = .next t) ∨ step s = .refused .outRegionTooSmall ∨ step s = .refused .hostWriteRejected := by
  cases hc : s.ctl with
  | idle => exact step_idle hf hc
  | busy ph x =>
    refine .inl ?_
    cases ph with
    | refill => exact ⟨_, step_refill hf hc⟩
    | timeoutAck => exact ⟨_, step_timeoutAck hf hc⟩
    | scan => exact h.step_scan hf hc
    | completeAck => exact ⟨_, step_completeAck hf hc⟩
    | finalAck => exact ⟨_, step_finalAck hf hc⟩

/-- Settles O49: a set fault halts the step, and without one `State.Inv.step_total` leaves the two refusals. -/
theorem stepsStopOnlyAsNamed : Obligations.StepsStopOnlyAsNamed := by
  intro s h
  cases hf : s.fault with
  | some k => simp [step_faulted hf]
  | none => obtain ⟨t, e⟩ | e | e := h.step_total hf <;> simp [e]

/-! ## Who writes the session (R22, R23, R26) -/

/-- R22, R23, R26: the six things a step can do to `sess_init`, `valid` and `consumed`. -/
inductive SessionStep (s t : State) : Prop where
  | kept (hi : t.sessInit = s.sessInit) (hv : t.valid = s.valid) (hk : t.consumed = s.consumed)
  | init (rest : List HostAction) (hc : s.ctl = .idle) (hq : s.hostQueue = .init :: rest) (hi : t.sessInit = true)
      (hv : t.valid = 0) (hk : t.consumed = 0)
  | read (x : Transfer) (bs : List Byte) (hc : s.ctl = .busy .refill x) (ha : nextReadAnswer s = .ok bs)
      (hb : bs.length ≤ s.cfg.cap) (hi : t.sessInit = s.sessInit) (hv : t.valid = bs.length) (hk : t.consumed = 0)
  | endPass (x : Transfer) (hc : s.ctl = .busy .scan x) (hp : s.valid ≤ x.p) (hi : t.sessInit = s.sessInit)
      (hv : t.valid = s.valid) (hk : t.consumed = s.valid)
  | done (x : Transfer) (hc : s.ctl = .busy .scan x) (hx : x.tstate = .waitingForEnd) (ht : t.ctl = .busy .finalAck x)
      (hi : t.sessInit = s.sessInit) (hv : t.valid = s.valid) (hk : t.consumed = x.p + 4)
  | abort (x : Transfer) (e : RxError) (hc : s.ctl = .busy .scan x ∨ s.ctl = .busy .completeAck x) (ht : t.ctl = .idle)
      (hr : t.result = some (.err e)) (hi : t.sessInit = s.sessInit) (hv : t.valid = s.valid)
      (hk : t.consumed = policyOffset s x.p)

theorem refillStep_session (hc : s.ctl = .busy .refill x) : SessionStep s (refillStep s x) := by
  obtain ⟨bs, -, -, e⟩ | ⟨bs, ha, hb, e⟩ | ⟨-, -, e⟩ | ⟨-, -, e⟩ | ⟨c, -, e⟩ := refillStep_cases s x
  · exact e ▸ .kept rfl rfl rfl
  · exact e ▸ .read x bs hc ha hb rfl rfl rfl
  · exact e ▸ .kept rfl rfl rfl
  · exact e ▸ .kept rfl rfl rfl
  · exact e ▸ .kept rfl rfl rfl

theorem timeoutAckStep_session (s : State) (x : Transfer) : SessionStep s (timeoutAckStep s x) := by
  obtain ⟨-, e⟩ | ⟨c, -, e⟩ := timeoutAckStep_cases s x <;> exact e ▸ .kept rfl rfl rfl

theorem completeAckStep_session (hc : s.ctl = .busy .completeAck x) : SessionStep s (completeAckStep s x) := by
  obtain ⟨-, e⟩ | ⟨c, -, e⟩ := completeAckStep_cases s x
  · exact e ▸ .kept rfl rfl rfl
  · exact e ▸ .abort x (.transport c) (.inr hc) rfl rfl rfl rfl rfl

theorem finalAckStep_session (s : State) (x : Transfer) : SessionStep s (finalAckStep s x) := by
  obtain ⟨-, e⟩ | ⟨c, -, e⟩ := finalAckStep_cases s x <;> exact e ▸ .kept rfl rfl rfl

theorem GroupRun.session (hr : GroupRun s x t) (hc : s.ctl = .busy .scan x) : SessionStep s t := by
  cases hr with
  | size len => obtain ⟨-, -, e⟩ | ⟨-, k, v, e⟩ := sizeStep_cases len s x <;> exact e ▸ .kept rfl rfl rfl
  | data tag bs _ _ =>
    obtain ⟨-, -, e⟩ | ⟨-, -, e⟩ | ⟨-, -, e⟩ | ⟨-, e⟩ := dataStep_cases tag bs s x
    · exact e ▸ .abort x .overflow (.inl hc) rfl rfl rfl rfl rfl
    · exact e ▸ .kept rfl rfl rfl
    · exact e ▸ .kept rfl rfl rfl
    · exact e ▸ .kept rfl rfl rfl
  | endMark =>
    obtain ⟨hx, e⟩ | ⟨-, e⟩ := endStep_cases s x
    · exact e ▸ .done x hc hx rfl rfl rfl rfl
    · exact e ▸ .kept rfl rfl rfl
  | unknown t => exact .kept rfl rfl rfl

theorem StepTo.session (hs : StepTo s t) : SessionStep s t := by
  cases hs with
  | init rest hc hq => exact .init rest hc hq rfl rfl rfl
  | refill x hc => exact refillStep_session hc
  | timeoutAck x _ => exact timeoutAckStep_session s x
  | completeAck x hc => exact completeAckStep_session hc
  | finalAck x _ => exact finalAckStep_session s x
  | endPass x hc hp => exact .endPass x hc hp rfl rfl rfl
  | group x _ hc _ _ _ hr => exact hr.session hc
  | _ => exact .kept rfl rfl rfl

/-- Settles O41: each of the six cases of `SessionStep` keeps a register or writes it as listed. -/
theorem sessionIsWrittenOnlyAsListed : Obligations.SessionIsWrittenOnlyAsListed := by
  intro s t hs
  obtain ⟨-, hst⟩ := step_cases hs
  cases hst.session with
  | kept hi hv hk => exact ⟨absurd hi, absurd hv, absurd hk⟩
  | init rest hc hq hi hv hk =>
    exact ⟨fun _ => ⟨hi, hc, rest, hq⟩, fun _ => .inl ⟨hv, hc, rest, hq⟩, fun _ => .inl ⟨hk, hc, rest, hq⟩⟩
  | read x bs hc ha hb hi hv hk =>
    exact ⟨absurd hi, fun _ => .inr ⟨x, bs, hc, ha, hb, hv⟩, fun _ => .inr (.inl ⟨hk, x, bs, hc, ha, hb⟩)⟩
  | endPass x hc hp hi hv hk => exact ⟨absurd hi, absurd hv, fun _ => .inr (.inr (.inl ⟨x, hc, hp, hk⟩))⟩
  | done x hc hx ht hi hv hk => exact ⟨absurd hi, absurd hv, fun _ => .inr (.inr (.inr (.inl ⟨x, hc, hx, ht, hk⟩)))⟩
  | abort x e hc ht hr hi hv hk =>
    exact ⟨absurd hi, absurd hv, fun _ => .inr (.inr (.inr (.inr ⟨x, e, hc, ht, hr, hk⟩)))⟩

/-! ## Who returns a result (R34, R146, R147) -/

/-- R148, R237: the block is Idle and shows the success or an error of a RECEIVE with these transfer registers. -/
def EndsReceive (x : Transfer) (t : State) : Prop :=
  t.ctl = .idle ∧ (t.result = some (.ok x.req) ∨ ∃ e, t.result = some (.err e))

theorem abort_endsReceive (s : State) (ph : OpPhase) (x : Transfer) (e : RxError) : EndsReceive x (s.abort ph x e) :=
  ⟨rfl, .inr ⟨e, rfl⟩⟩

theorem refillStep_result (s : State) (x : Transfer) :
    (refillStep s x).result = s.result ∨ EndsReceive x (refillStep s x) := by
  obtain ⟨bs, -, -, e⟩ | ⟨bs, -, -, e⟩ | ⟨-, -, e⟩ | ⟨-, -, e⟩ | ⟨c, -, e⟩ := refillStep_cases s x
  · exact e ▸ .inl rfl
  · exact e ▸ .inl rfl
  · exact e ▸ .inr (abort_endsReceive _ _ x _)
  · exact e ▸ .inl rfl
  · exact e ▸ .inr (abort_endsReceive _ _ x _)

theorem timeoutAckStep_result (s : State) (x : Transfer) :
    (timeoutAckStep s x).result = s.result ∨ EndsReceive x (timeoutAckStep s x) := by
  obtain ⟨-, e⟩ | ⟨c, -, e⟩ := timeoutAckStep_cases s x
  · exact e ▸ .inl rfl
  · exact e ▸ .inr (abort_endsReceive _ _ x _)

theorem completeAckStep_result (s : State) (x : Transfer) :
    (completeAckStep s x).result = s.result ∨ EndsReceive x (completeAckStep s x) := by
  obtain ⟨-, e⟩ | ⟨c, -, e⟩ := completeAckStep_cases s x
  · exact e ▸ .inl rfl
  · exact e ▸ .inr (abort_endsReceive _ _ x _)

theorem finalAckStep_endsReceive (s : State) (x : Transfer) : EndsReceive x (finalAckStep s x) := by
  obtain ⟨-, e⟩ | ⟨c, -, e⟩ := finalAckStep_cases s x
  · exact e ▸ ⟨rfl, .inl rfl⟩
  · exact e ▸ ⟨rfl, .inr ⟨_, rfl⟩⟩

theorem GroupRun.result (hr : GroupRun s x t) : t.result = s.result ∨ EndsReceive x t := by
  cases hr with
  | size len => obtain ⟨-, -, e⟩ | ⟨-, k, v, e⟩ := sizeStep_cases len s x <;> exact e ▸ .inl rfl
  | data tag bs _ _ =>
    obtain ⟨-, -, e⟩ | ⟨-, -, e⟩ | ⟨-, -, e⟩ | ⟨-, e⟩ := dataStep_cases tag bs s x
    · exact e ▸ .inr (abort_endsReceive s _ x _)
    · exact e ▸ .inl rfl
    · exact e ▸ .inl rfl
    · exact e ▸ .inl rfl
  | endMark => obtain ⟨-, e⟩ | ⟨-, e⟩ := endStep_cases s x <;> exact e ▸ .inl rfl
  | unknown t => exact .inl rfl

/-- R34, R39: what a step leaves in `result`: nothing, what ENCODE or ACK_BYTE returned, or, from inside a RECEIVE, what was
there or what ends it. -/
theorem StepTo.result (hs : StepTo s t) :
    t.result = none ∨
    (∃ cmd arg rest, s.ctl = .idle ∧ s.hostQueue = .encode cmd arg :: rest ∧ t.ctl = .idle ∧
      t.result = some (.frame (frameOf cmd arg))) ∨
    (∃ rest, s.ctl = .idle ∧ s.hostQueue = .ackByte :: rest ∧ t.ctl = .idle ∧ t.result = some (.byte ackValue)) ∨
    ∃ ph x, s.ctl = .busy ph x ∧ (t.result = s.result ∨ EndsReceive x t) := by
  cases hs with
  | encode cmd arg rest hc hq => exact .inr (.inl ⟨cmd, arg, rest, hc, hq, rfl, rfl⟩)
  | ackByte rest hc hq => exact .inr (.inr (.inl ⟨rest, hc, hq, rfl, rfl⟩))
  | refill x hc => exact .inr (.inr (.inr ⟨_, x, hc, refillStep_result s x⟩))
  | timeoutAck x hc => exact .inr (.inr (.inr ⟨_, x, hc, timeoutAckStep_result s x⟩))
  | completeAck x hc => exact .inr (.inr (.inr ⟨_, x, hc, completeAckStep_result s x⟩))
  | finalAck x hc => exact .inr (.inr (.inr ⟨_, x, hc, .inr (finalAckStep_endsReceive s x)⟩))
  | endPass x hc _ => exact .inr (.inr (.inr ⟨_, x, hc, .inl rfl⟩))
  | partialGroup x hc _ _ => exact .inr (.inr (.inr ⟨_, x, hc, .inl rfl⟩))
  | group x _ hc _ _ _ hr => exact .inr (.inr (.inr ⟨_, x, hc, hr.result⟩))
  | _ => exact .inl rfl

/-- Settles O53: inside a RECEIVE the invariant has no result held, so one that is there after the step ended the RECEIVE. -/
theorem resultIsHandedOverOnce : Obligations.ResultIsHandedOverOnce := by
  intro s t r h hs hr
  obtain ⟨-, hst⟩ := step_cases hs
  obtain e | ⟨cmd, arg, rest, hc, hq, ht, e⟩ | ⟨rest, hc, hq, ht, e⟩ | ⟨ph, x, hc, e | ⟨ht, e | ⟨err, e⟩⟩⟩ := hst.result
  · cases hr.symm.trans e
  · cases hr.symm.trans e
    exact ⟨ht, .inl ⟨cmd, arg, rest, hc, hq, rfl⟩⟩
  · cases hr.symm.trans e
    exact ⟨ht, .inr (.inl ⟨rest, hc, hq, rfl⟩)⟩
  · cases hr.symm.trans (e.trans (h.pending ph x hc))
  · cases hr.symm.trans e
    exact ⟨ht, .inr (.inr ⟨ph, x, hc, .inl rfl⟩)⟩
  · cases hr.symm.trans e
    exact ⟨ht, .inr (.inr ⟨ph, x, hc, .inr ⟨err, rfl⟩⟩)⟩

/-! ## R24's multiple of 4 (log 12) -/

/-- A RECEIVE of 1 byte that has read its SIZE_ANNOUNCE and has a DATA2 group at the cursor. -/
def overflowTransfer : Transfer := ⟨.receiving, 1, 0, 4, 0, ⟨0, 1⟩⟩

/-- Under Exhaust, a buffer of 10 bytes: the SIZE_ANNOUNCE of 1 byte, the DATA2 group that overflows it, and 2 bytes of a third
group. -/
def overflowState : State where
  cfg          := ⟨12, 1000, 1000, none, .exhaust, 1, 2⟩
  raw          := cellsFrom 0 [0x1B, 0x00, 0x00, 0x01, 0x1E, 0xAA, 0xBB, 0x00, 0x15, 0x00]
  consumed     := 0
  valid        := 10
  sessInit     := true
  ctl          := .busy .scan overflowTransfer
  fault        := none
  result       := none
  diag         := []
  hostMem      := []
  hostQueue    := []
  readAnswers  := []
  writeAnswers := []
  calls        := []
  draws        := 0

theorem overflowTransfer_inv : TransferInv overflowState.cfg overflowTransfer where
  region := by decide
  bounded := by decide
  unstarted e := nomatch e
  unfinished _ := .inl (by decide)
  finished e := nomatch e
  retries _ e := nomatch e

theorem overflowState_inv : overflowState.Inv where
  legal := by decide
  rawWf := cellsFrom_wf _ _
  hostWf := .nil
  rawBound := by decide
  rawWritten := by decide
  offsets := by decide
  stride := .inl rfl
  pending _ _ _ := rfl
  session _ _ _ := rfl
  transfer _ _ e := by cases e; exact overflowTransfer_inv
  phase _ _ e := by cases e; decide

theorem step_overflowState : step overflowState = .next (overflowState.abort .scan overflowTransfer .overflow) := by
  rfl

/-- Refutes O38: the Overflow of `overflowState` takes `consumed` from 0 to `valid`, which is 10. -/
theorem not_consumedStaysAMultipleOfFour : ¬ Obligations.ConsumedStaysAMultipleOfFour := by
  intro h
  have h4 := h overflowState _ overflowState_inv rfl step_overflowState
  exact absurd h4 (by decide)

end Sys2Proof.Machine
end

