-- ==== Sys2Proof/Proofs/Memory.lean ====
section
/-! PROOFS. The memories of spec/20_memory.md: who writes the session buffer (R52), and which bytes of the host's memory a step
writes, in which order (R54 to R56). -/

namespace Sys2Proof.Machine

variable {s t : State} {x : Transfer}

/-! ## The session buffer (R52, R135) -/

theorem refillStep_raw (s : State) (x : Transfer) :
    (refillStep s x).raw = s.raw ∨
    ∃ bs, nextReadAnswer s = .ok bs ∧ bs.length ≤ s.cfg.cap ∧ (refillStep s x).valid = bs.length := by
  obtain ⟨bs, -, -, e⟩ | ⟨bs, ha, hb, e⟩ | ⟨-, -, e⟩ | ⟨-, -, e⟩ | ⟨c, -, e⟩ := refillStep_cases s x
  · exact e ▸ .inl rfl
  · exact .inr ⟨bs, ha, hb, e ▸ rfl⟩
  · exact e ▸ .inl rfl
  · exact e ▸ .inl rfl
  · exact e ▸ .inl rfl

theorem timeoutAckStep_memory (s : State) (x : Transfer) :
    (timeoutAckStep s x).raw = s.raw ∧ (timeoutAckStep s x).hostMem = s.hostMem := by
  obtain ⟨-, e⟩ | ⟨c, -, e⟩ := timeoutAckStep_cases s x <;> simp [e]

theorem completeAckStep_memory (s : State) (x : Transfer) :
    (completeAckStep s x).raw = s.raw ∧ (completeAckStep s x).hostMem = s.hostMem := by
  obtain ⟨-, e⟩ | ⟨c, -, e⟩ := completeAckStep_cases s x <;> simp [e]

theorem finalAckStep_memory (s : State) (x : Transfer) :
    (finalAckStep s x).raw = s.raw ∧ (finalAckStep s x).hostMem = s.hostMem := by
  obtain ⟨-, e⟩ | ⟨c, -, e⟩ := finalAckStep_cases s x <;> simp [e]

/-- R52: a step leaves the buffer alone, or is a physical read answered Ok with bytes that fit. -/
theorem StepTo.raw (hs : StepTo s t) :
    t.raw = s.raw ∨
    ∃ x bs, s.ctl = .busy .refill x ∧ nextReadAnswer s = .ok bs ∧ bs.length ≤ s.cfg.cap ∧ t.valid = bs.length := by
  cases hs with
  | refill x hc => exact (refillStep_raw s x).imp_right fun ⟨bs, hr⟩ => ⟨x, bs, hc, hr⟩
  | timeoutAck x _ => exact .inl (timeoutAckStep_memory s x).1
  | completeAck x _ => exact .inl (completeAckStep_memory s x).1
  | finalAck x _ => exact .inl (finalAckStep_memory s x).1
  | group x _ _ _ _ _ hr =>
    obtain ⟨-, hraw, -⟩ := hr.frame
    exact .inl hraw
  | _ => exact .inl rfl

/-- Settles O40: of the two cases of `StepTo.raw`, only the physical read changes the buffer. -/
theorem onlyAPhysicalReadWritesRaw : Obligations.OnlyAPhysicalReadWritesRaw := by
  intro s t hs hne
  obtain ⟨-, hst⟩ := step_cases hs
  exact hst.raw.resolve_left hne

/-! ## The host's memory (R54, R55, R165) -/

/-- R54: a store of a chunk changes only the bytes at the indices of its payload. -/
theorem outAddr_of_read_outWrites_ne {m : Memory} {out : OutRegion} {i a : Nat} {bs : List Byte}
    (h : (outWrites m out i bs).read a ≠ m.read a) : outAddr out i ≤ a ∧ a < outAddr out (i + bs.length) := by
  have e : outAddr out (i + bs.length) = outAddr out i + bs.length := (Nat.add_assoc _ _ _).symm
  by_contra hout
  exact h (by rw [read_outWrites, ← e, if_neg hout])

/-- R54, R165: what a step can do to the host's memory: leave it, or store the whole payload of the DATA group at the cursor, which
fits below `req`, from index `written` on, and count it. -/
inductive OutStep (s t : State) : Prop where
  | kept (hm : t.hostMem = s.hostMem)
  | stored (x : Transfer) (g : Group) (bs : List Byte) (hc : s.ctl = .busy .scan x) (hx : x.tstate = .receiving)
      (hp : x.p + 4 ≤ s.valid) (hg : readGroup s.raw x.p = some g) (hb : chunkOf (decodeGroup g) = some bs)
      (hfit : x.written + bs.length ≤ x.req.toNat) (hm : t.hostMem = outWrites s.hostMem x.out x.written bs)
      (hcount : ∃ ph y, t.ctl = .busy ph y ∧ y.written = x.written + bs.length)

theorem refillStep_hostMem (s : State) (x : Transfer) : (refillStep s x).hostMem = s.hostMem := by
  obtain ⟨bs, -, -, e⟩ | ⟨bs, -, -, e⟩ | ⟨-, -, e⟩ | ⟨-, -, e⟩ | ⟨c, -, e⟩ := refillStep_cases s x <;>
    simp [e, fillBuffer]

theorem sizeStep_hostMem (len : BitVec 16) (s : State) (x : Transfer) : (sizeStep len s x).hostMem = s.hostMem := by
  obtain ⟨-, -, e⟩ | ⟨-, k, v, e⟩ := sizeStep_cases len s x <;> simp [e]

theorem endStep_hostMem (s : State) (x : Transfer) : (endStep s x).hostMem = s.hostMem := by
  obtain ⟨-, e⟩ | ⟨-, e⟩ := endStep_cases s x <;> simp [e]

/-- R160: a group either stores nothing or is the DATA group whose payload `chunkOf` names. -/
theorem exec_decodeGroup_hostMem {g : Group} (hc : s.ctl = .busy .scan x) (he : exec (decodeGroup g) s = .next t) :
    t.hostMem = s.hostMem ∨ ∃ tag bs, chunkOf (decodeGroup g) = some bs ∧ t = dataStep tag bs s x := by
  unfold decodeGroup at he ⊢
  split_ifs at he ⊢
  all_goals
    obtain ⟨y, -, hy, he⟩ := inScan_next he
    cases hc.symm.trans hy
    cases he
  · exact .inl (sizeStep_hostMem _ s x)
  · exact .inr ⟨_, _, rfl, rfl⟩
  · exact .inr ⟨_, _, rfl, rfl⟩
  · exact .inr ⟨_, _, rfl, rfl⟩
  · exact .inl (endStep_hostMem s x)
  · exact .inl rfl

theorem exec_decodeGroup_out {g : Group} (hc : s.ctl = .busy .scan x) (hp : x.p + 4 ≤ s.valid)
    (hg : readGroup s.raw x.p = some g) (he : exec (decodeGroup g) s = .next t) : OutStep s t := by
  obtain hm | ⟨tag, bs, hb, rfl⟩ := exec_decodeGroup_hostMem hc he
  · exact .kept hm
  · obtain ⟨-, -, e⟩ | ⟨hx, hn, e⟩ | ⟨hx, hn, e⟩ | ⟨-, e⟩ := dataStep_cases tag bs s x
    · exact e ▸ .kept rfl
    · exact e ▸ .stored x g bs hc hx hp hg hb hn.le rfl ⟨_, _, rfl, rfl⟩
    · exact e ▸ .stored x g bs hc hx hp hg hb hn.le rfl ⟨_, _, rfl, rfl⟩
    · exact e ▸ .kept rfl

theorem StepTo.out (hs : StepTo s t) : OutStep s t := by
  cases hs with
  | refill x _ => exact .kept (refillStep_hostMem s x)
  | timeoutAck x _ => exact .kept (timeoutAckStep_memory s x).2
  | completeAck x _ => exact .kept (completeAckStep_memory s x).2
  | finalAck x _ => exact .kept (finalAckStep_memory s x).2
  | group x g hc hp hg he _ => exact exec_decodeGroup_out hc hp hg he
  | _ => exact .kept rfl

/-- Settles O42: the one case of `OutStep` that writes stores a payload that ends at or below `req`. -/
theorem outWritesStayBelowReq : Obligations.OutWritesStayBelowReq := by
  intro s t a hs hne
  obtain ⟨-, hst⟩ := step_cases hs
  cases hst.out with
  | kept hm => exact absurd (by rw [hm]) hne
  | stored x g bs hc hx hp hg hb hfit hm _ =>
    rw [hm] at hne
    exact ⟨x, g, bs, hc, hx, hp, hg, hb, by rw [min_eq_left hfit]; exact outAddr_of_read_outWrites_ne hne⟩

/-! ## The order of the output writes (R28, R35, R56) -/

/-- R28, R29, R35: from transfer registers `x` the RECEIVE has ended, or goes on with the same operands and no smaller `written`. -/
inductive Continues (x : Transfer) : Control → Prop where
  | ended : Continues x .idle
  | goesOn (ph : OpPhase) (y : Transfer) (hreq : y.req = x.req) (hout : y.out = x.out) (hle : x.written ≤ y.written) :
      Continues x (.busy ph y)

theorem refillStep_continues (hc : s.ctl = .busy .refill x) : Continues x (refillStep s x).ctl := by
  obtain ⟨bs, -, -, e⟩ | ⟨bs, -, -, e⟩ | ⟨-, -, e⟩ | ⟨-, -, e⟩ | ⟨c, -, e⟩ := refillStep_cases s x <;> rw [e]
  · rw [raiseFault_ctl, physicalRead_ctl, hc]
    exact .goesOn _ _ rfl rfl le_rfl
  · exact .goesOn _ _ rfl rfl le_rfl
  · exact .ended
  · exact .goesOn _ _ rfl rfl le_rfl
  · exact .ended

theorem timeoutAckStep_continues (s : State) (x : Transfer) : Continues x (timeoutAckStep s x).ctl := by
  obtain ⟨-, e⟩ | ⟨c, -, e⟩ := timeoutAckStep_cases s x <;> rw [e]
  · exact .goesOn _ _ rfl rfl le_rfl
  · exact .ended

theorem completeAckStep_continues (s : State) (x : Transfer) : Continues x (completeAckStep s x).ctl := by
  obtain ⟨-, e⟩ | ⟨c, -, e⟩ := completeAckStep_cases s x <;> rw [e]
  · exact .goesOn _ _ rfl rfl le_rfl
  · exact .ended

theorem finalAckStep_continues (s : State) (x : Transfer) : Continues x (finalAckStep s x).ctl := by
  obtain ⟨-, e⟩ | ⟨c, -, e⟩ := finalAckStep_cases s x <;> rw [e] <;> exact .ended

/-- R162, R165: a matching announcement sets `written` to 0, which the invariant says it was; a chunk only adds to it. -/
theorem GroupRun.continues (ht : TransferInv s.cfg x) (hr : GroupRun s x t) : Continues x t.ctl := by
  cases hr with
  | size len =>
    obtain ⟨hx, -, e⟩ | ⟨-, k, v, e⟩ := sizeStep_cases len s x <;> rw [e]
    · exact .goesOn _ _ rfl rfl (ht.unstarted hx).le
    · exact .goesOn _ _ rfl rfl le_rfl
  | data tag bs _ _ =>
    obtain ⟨-, -, e⟩ | ⟨-, -, e⟩ | ⟨-, -, e⟩ | ⟨-, e⟩ := dataStep_cases tag bs s x <;> rw [e]
    · exact .ended
    · exact .goesOn _ _ rfl rfl (Nat.le_add_right _ _)
    · exact .goesOn _ _ rfl rfl (Nat.le_add_right _ _)
    · exact .goesOn _ _ rfl rfl le_rfl
  | endMark =>
    obtain ⟨-, e⟩ | ⟨-, e⟩ := endStep_cases s x <;> rw [e] <;> exact .goesOn _ _ rfl rfl le_rfl
  | unknown t => exact .goesOn _ _ rfl rfl le_rfl

theorem StepTo.continues (h : s.Inv) (hs : StepTo s t) :
    s.ctl = .idle ∨ ∃ ph x, s.ctl = .busy ph x ∧ Continues x t.ctl := by
  cases hs with
  | refill x hc => exact .inr ⟨_, x, hc, refillStep_continues hc⟩
  | timeoutAck x hc => exact .inr ⟨_, x, hc, timeoutAckStep_continues s x⟩
  | completeAck x hc => exact .inr ⟨_, x, hc, completeAckStep_continues s x⟩
  | finalAck x hc => exact .inr ⟨_, x, hc, finalAckStep_continues s x⟩
  | endPass x hc _ => exact .inr ⟨_, x, hc, .goesOn _ _ rfl rfl le_rfl⟩
  | partialGroup x hc _ _ =>
    exact .inr ⟨_, x, hc, by rw [raiseFault_ctl, hc]; exact .goesOn _ _ rfl rfl le_rfl⟩
  | group x _ hc _ _ _ hr => exact .inr ⟨_, x, hc, hr.continues (h.transfer _ x hc)⟩
  | _ => exact .inl ‹_›

/-- Settles O43: `Continues` gives the operands and the order, and a store of `OutStep` ends where the new `written` stands. -/
theorem outIndicesRise : Obligations.OutIndicesRise := by
  intro s t ph ph' x y h hc hs hct
  obtain ⟨-, hst⟩ := step_cases hs
  obtain hi | ⟨_, _, hc', hcon⟩ := hst.continues h
  · cases hc.symm.trans hi
  cases hc.symm.trans hc'
  rw [hct] at hcon
  cases hcon with
  | goesOn _ _ hreq hout hle =>
    refine ⟨hreq, hout, hle, fun a hne => ?_⟩
    cases hst.out with
    | kept hm => exact absurd (by rw [hm]) hne
    | stored x' g bs hc' _ _ _ _ _ hm hcount =>
      cases hc.symm.trans hc'
      obtain ⟨_, _, hct', hw⟩ := hcount
      cases hct.symm.trans hct'
      rw [hm] at hne
      exact hw ▸ outAddr_of_read_outWrites_ne hne

end Sys2Proof.Machine
end

section
/-! PROOFS. The encodings of spec/30_encoding.md. The tag of a group leaves six cases (`tag_cases`), and one equation per case
says what the decoder answers; both directions of the round trip, and the class of every group, are read off these equations.
Then the host's own writes of a frame and of an ack (R200). -/

namespace Sys2Proof

/-! ## The bytes of a joined value (R8) -/

@[simp] theorem byteOf_be16_one (a b : Byte) : byteOf (be16 a b) 1 = a :=
  (byteOf_append_succ a b 0).trans (byteOf_self a)

@[simp] theorem byteOf_be16_zero (a b : Byte) : byteOf (be16 a b) 0 = b := byteOf_append_zero a b

@[simp] theorem byteOf_be24_two (a b c : Byte) : byteOf (be24 a b c) 2 = a :=
  (byteOf_append_succ _ c 1).trans (byteOf_be16_one a b)

@[simp] theorem byteOf_be24_one (a b c : Byte) : byteOf (be24 a b c) 1 = b :=
  (byteOf_append_succ _ c 0).trans (byteOf_be16_zero a b)

@[simp] theorem byteOf_be24_zero (a b c : Byte) : byteOf (be24 a b c) 0 = c := byteOf_append_zero _ c

@[simp] theorem byteOf_be32_three (a b c d : Byte) : byteOf (be32 a b c d) 3 = a :=
  (byteOf_append_succ _ d 2).trans (byteOf_be24_two a b c)

@[simp] theorem byteOf_be32_two (a b c d : Byte) : byteOf (be32 a b c d) 2 = b :=
  (byteOf_append_succ _ d 1).trans (byteOf_be24_one a b c)

@[simp] theorem byteOf_be32_one (a b c d : Byte) : byteOf (be32 a b c d) 1 = c :=
  (byteOf_append_succ _ d 0).trans (byteOf_be24_zero a b c)

@[simp] theorem byteOf_be32_zero (a b c d : Byte) : byteOf (be32 a b c d) 0 = d := byteOf_append_zero _ d

/-- R8: the joined bytes as the number the spec writes. -/
theorem be16_eq_ofNat (a b : Byte) : be16 a b = BitVec.ofNat 16 (a.toNat * 256 + b.toNat) := by
  have happend : (be16 a b).toNat = a.toNat * 256 + b.toNat := by
    rw [be16, BitVec.toNat_append, ← Nat.shiftLeft_add_eq_or_of_lt b.isLt, Nat.shiftLeft_eq]
  exact BitVec.eq_of_toNat_eq (by rw [← happend, BitVec.ofNat_toNat, BitVec.setWidth_eq])

/-! ## The classes of a group (R81) -/

theorem isUnknownTag_iff {t : Byte} :
    isUnknownTag t = true ↔ t ≠ tagSize ∧ t ≠ tagD1 ∧ t ≠ tagD2 ∧ t ≠ tagD3 ∧ t ≠ tagEnd := by
  simp only [isUnknownTag, Bool.not_eq_true', Bool.or_eq_false_iff, beq_eq_false_iff_ne]
  tauto

theorem tag_cases (t : Byte) :
    t = tagSize ∨ t = tagD1 ∨ t = tagD2 ∨ t = tagD3 ∨ t = tagEnd ∨ isUnknownTag t = true := by
  rw [isUnknownTag_iff]
  tauto

section Classes

variable (b1 b2 b3 : Byte)

theorem decodeGroup_tagSize : decodeGroup ⟨tagSize, b1, b2, b3⟩ = .sizeAnnounce b1 (be16 b2 b3) := rfl

theorem decodeGroup_tagD1 : decodeGroup ⟨tagD1, b1, b2, b3⟩ = .data1 b1 (be16 b2 b3) := rfl

theorem decodeGroup_tagD2 : decodeGroup ⟨tagD2, b1, b2, b3⟩ = .data2 b1 b2 b3 := rfl

theorem decodeGroup_tagD3 : decodeGroup ⟨tagD3, b1, b2, b3⟩ = .data3 b1 b2 b3 := rfl

theorem decodeGroup_tagEnd : decodeGroup ⟨tagEnd, b1, b2, b3⟩ = .endMark (be24 b1 b2 b3) := rfl

theorem decodeGroup_unknown {t : Byte} (ht : isUnknownTag t = true) :
    decodeGroup ⟨t, b1, b2, b3⟩ = .unknown t (be24 b1 b2 b3) := by
  obtain ⟨hs, h1, h2, h3, he⟩ := isUnknownTag_iff.1 ht
  simp only [decodeGroup, hs, h1, h2, h3, he, if_false]

end Classes

/-- Settles O4: the equation of the tag's class, clause by clause. -/
theorem groupClassDecidedByTag : Obligations.GroupClassDecidedByTag := by
  intro t b1 b2 b3
  refine ⟨decodeGroup ⟨t, b1, b2, b3⟩, rfl, ?_, ?_, ?_, ?_, ?_, ?_⟩
  · rintro rfl
    exact be16_eq_ofNat b2 b3 ▸ decodeGroup_tagSize b1 b2 b3
  · rintro rfl
    exact congrArg Machine.chunkOf (decodeGroup_tagD1 b1 b2 b3)
  · rintro rfl
    exact congrArg Machine.chunkOf (decodeGroup_tagD2 b1 b2 b3)
  · rintro rfl
    exact congrArg Machine.chunkOf (decodeGroup_tagD3 b1 b2 b3)
  · rintro rfl
    exact ⟨_, decodeGroup_tagEnd b1 b2 b3⟩
  · intro hs h1 h2 h3 he
    exact ⟨_, decodeGroup_unknown b1 b2 b3 (isUnknownTag_iff.2 ⟨hs, h1, h2, h3, he⟩)⟩

/-! ## The round trips (R80 to R88, R90) -/

/-- Settles O2: the equation of the instruction's class, with the bytes joined to the operands they were cut from. -/
theorem decodeAfterEncode : Obligations.DecodeAfterEncode := by
  intro i ch hwf hch
  cases i with
  | sizeAnnounce b1 len => cases hch; simp [encode, decode, decodeGroup_tagSize]
  | data1 d0 pad => cases hch; simp [encode, decode, decodeGroup_tagD1]
  | data2 d0 d1 pad => cases hch; simp [encode, decode, decodeGroup_tagD2]
  | data3 d0 d1 d2 => cases hch; simp [encode, decode, decodeGroup_tagD3]
  | endMark pad => cases hch; simp [encode, decode, decodeGroup_tagEnd]
  | unknown t rest => cases hch; simp [encode, decode, decodeGroup_unknown _ _ _ hwf]
  | cmdFrame cmd arg => cases hch; simp [encode, decode, decodeFrame]
  | ack => cases hch; rfl
  | init | encodeCmd _ _ | ackByte | receive _ _ => cases hch

/-- What the decoder's answer `i` to `bs` on `ch` has to meet. -/
def StandsFor (ch : Channel) (bs : List Byte) (i : Instr) : Prop :=
  i.wf = true ∧ i.channel = some ch ∧ encode i = bs

theorem decodeGroup_standsFor (t b1 b2 b3 : Byte) :
    StandsFor .fromDevice [t, b1, b2, b3] (decodeGroup ⟨t, b1, b2, b3⟩) := by
  obtain rfl | rfl | rfl | rfl | rfl | ht := tag_cases t
  · exact ⟨rfl, rfl, by simp [decodeGroup_tagSize, encode]⟩
  · exact ⟨rfl, rfl, by simp [decodeGroup_tagD1, encode]⟩
  · exact ⟨rfl, rfl, by simp [decodeGroup_tagD2, encode]⟩
  · exact ⟨rfl, rfl, by simp [decodeGroup_tagD3, encode]⟩
  · exact ⟨rfl, rfl, by simp [decodeGroup_tagEnd, encode]⟩
  · rw [decodeGroup_unknown b1 b2 b3 ht]
    exact ⟨ht, rfl, by simp [encode]⟩

theorem decodeAck_standsFor {b : Byte} {i : Instr} (h : decodeAck b = .ok i) : StandsFor .toDevice [b] i := by
  unfold decodeAck at h
  split_ifs at h with hb
  cases h
  exact ⟨rfl, rfl, by rw [hb, encode]⟩

theorem decodeFrame_standsFor {f0 f1 f2 f3 f4 f5 f6 f7 f8 f9 f10 : Byte} {i : Instr}
    (h : decodeFrame f0 f1 f2 f3 f4 f5 f6 f7 f8 f9 f10 = .ok i) :
    StandsFor .toDevice [f0, f1, f2, f3, f4, f5, f6, f7, f8, f9, f10] i := by
  unfold decodeFrame at h
  split_ifs at h with htags
  obtain ⟨h0, h4, h8⟩ := htags
  cases h
  exact ⟨rfl, rfl, by simp [encode, h0, h4, h8]⟩

/-- Settles O3: an answer comes from a group, an ack or a frame, and each stands for the bytes it was read from. -/
theorem encodeAfterDecode : Obligations.EncodeAfterDecode := by
  intro ch bs i h
  unfold decode at h
  split at h
  · cases h
    exact decodeGroup_standsFor _ _ _ _
  · cases h
  · exact decodeAck_standsFor h
  · exact decodeFrame_standsFor h
  · cases h

/-- Settles O1: each word is evaluated. -/
theorem specWordsDecode : Obligations.SpecWordsDecode := by
  unfold Obligations.SpecWordsDecode
  decide

end Sys2Proof

namespace Sys2Proof.Machine

/-! ## The host's own writes (R200, R118, R113) -/

theorem hostWrites_sameButWire (s : State) (bs : List Byte) : SameButWire s (s.hostWrites bs) := by
  simp [SameButWire, SameRegisters]

theorem exec_cmdFrame_idle {s : State} (hf : s.fault = none) (hc : s.ctl = .idle) (cmd arg : BitVec 32) :
    exec (.cmdFrame cmd arg) s = .next (s.hostWrites (encode (.cmdFrame cmd arg))) :=
  whenIdle_eq hf hc _

/-- Settles O8: in an Idle block both are `State.hostWrites` of their encoding, which touches the transport's side only. -/
theorem hostWritesChangeNoRegister : Obligations.HostWritesChangeNoRegister :=
  ⟨fun s cmd arg hf hc => ⟨_, exec_cmdFrame_idle hf hc cmd arg, hostWrites_sameButWire s _, rfl, rfl⟩,
    fun s hf hc => ⟨_, execAck_idle hf hc, hostWrites_sameButWire s _, rfl, rfl⟩⟩

end Sys2Proof.Machine
end

section
/-! PROOFS. CommandEncoder and AckSignal (spec/40_command_encoder.md). The frame that ENCODE computes is the encoding of
CMD_FRAME, so its decode law is the round trip of R86, and injectivity follows from the decode law. Both operations return
their result from an Idle block, and such a return writes `result` only. -/

namespace Sys2Proof.Machine

/-! ## The frame (R111, R115) -/

/-- R86, R111: the frame that ENCODE computes and the frame on the wire have the same bytes. -/
theorem frameOf_eq_encode (cmd arg : BitVec 32) : frameOf cmd arg = encode (.cmdFrame cmd arg) := rfl

theorem decode_frameOf (cmd arg : BitVec 32) : decode .toDevice (frameOf cmd arg) = .ok (.cmdFrame cmd arg) := by
  rw [frameOf_eq_encode]
  exact decodeAfterEncode _ _ rfl rfl

/-- R115: the decoder is a left inverse, so equal frames have equal operands. -/
theorem frameOf_injective {cmd arg cmd' arg' : BitVec 32} (h : frameOf cmd arg = frameOf cmd' arg') :
    cmd = cmd' ∧ arg = arg' := by
  have hdecoded := decode_frameOf cmd arg
  rw [h, decode_frameOf] at hdecoded
  cases hdecoded
  exact ⟨rfl, rfl⟩

/-- Settles O5: the round trip of CMD_FRAME, and the injectivity that it gives. -/
theorem frameDecodesToItsOperands : Obligations.FrameDecodesToItsOperands :=
  ⟨decode_frameOf, fun _ _ _ _ => frameOf_injective⟩

/-! ## The operations of an Idle block that return at once (R110, R117) -/

section Returns

variable {s : State} (hf : s.fault = none) (hc : s.ctl = .idle)

include hc in
/-- R34: an operation that returns from an Idle block leaves the phase as it is, so it writes `result` only. -/
theorem returnWith_of_idle (r : Result) : s.returnWith r = { s with result := some r } := by
  rw [State.returnWith, ← hc]

include hf hc

theorem whenIdle_returnWith (r : Result) :
    whenIdle s (.next (s.returnWith r)) = .next { s with result := some r } := by
  rw [whenIdle_eq hf hc, returnWith_of_idle hc]

theorem exec_encodeCmd_idle (cmd arg : BitVec 32) :
    exec (.encodeCmd cmd arg) s = .next { s with result := some (.frame (frameOf cmd arg)) } :=
  whenIdle_returnWith hf hc _

theorem exec_ackByte_idle : exec .ackByte s = .next { s with result := some (.byte ackValue) } :=
  whenIdle_returnWith hf hc _

end Returns

/-- Settles O6: ENCODE's equation in an Idle block; the frame's bytes are the operands' own. -/
theorem encodeReturnsTheFrame : Obligations.EncodeReturnsTheFrame :=
  fun _ cmd arg hf hc => exec_encodeCmd_idle hf hc cmd arg

/-- Settles O7: ACK_BYTE's equation in an Idle block. -/
theorem ackByteReturnsItsConstant : Obligations.AckByteReturnsItsConstant :=
  fun _ hf hc => exec_ackByte_idle hf hc

end Sys2Proof.Machine
end

section
/-! PROOFS. The receive session (spec/41_receive.md): what INIT and RECEIVE answer in an Idle block, what the controller does in
each phase of a RECEIVE, and how a RECEIVE ends. First the equations of the operations and of the steps, one per case; then what
of the state an operation leaves alone but for the transport's side (`SameButWire`). -/

namespace Sys2Proof.Machine

variable {s t : State} {ph : OpPhase} {x : Transfer} {i : Instr}

/-! ## INIT and RECEIVE in an Idle block (R131 to R133) -/

theorem exec_init_idle (hf : s.fault = none) (hc : s.ctl = .idle) :
    exec .init s = .next { s with consumed := 0, valid := 0, sessInit := true, result := none } :=
  whenIdle_eq hf hc _

/-- Settles O10: INIT's equation in an Idle block. -/
theorem initEmptiesTheSession : Obligations.InitEmptiesTheSession :=
  fun _ => exec_init_idle

/-- R243: with no fault set, the register takes the kind that is raised. -/
theorem raiseFault_eq (hf : s.fault = none) (k : FaultKind) : s.raiseFault k = { s with fault := some k } := by
  simp only [State.raiseFault, hf, Option.getD_none]

/-- R132 (1): the session is tested before the region. -/
theorem exec_receive_uninitialised (hf : s.fault = none) (hc : s.ctl = .idle) (hi : s.sessInit = false) (req : Size)
    (out : OutRegion) : exec (.receive req out) s = .next (s.raiseFault .sessionUninitialised) := by
  simp only [exec, execReceive, whenIdle_eq hf hc, hi, if_true]

/-- Settles O11: the first test of RECEIVE raises the fault, whatever the region. -/
theorem receiveBeforeInitFaults : Obligations.ReceiveBeforeInitFaults :=
  fun _ req out hf hc hi => raiseFault_eq hf .sessionUninitialised ▸ exec_receive_uninitialised hf hc hi req out

/-- Settles O12: the session passes the first test of RECEIVE, and the region fails the second. -/
theorem receiveRefusesAShortRegion : Obligations.ReceiveRefusesAShortRegion := by
  intro s req out hf hc hi hl
  simp [exec, execReceive, whenIdle_eq hf hc, hi, hl]

/-- R133, R151: both tests passed, the transfer starts by a physical read exactly when the session is exhausted. -/
theorem exec_receive_accepted (hf : s.fault = none) (hc : s.ctl = .idle) (hi : s.sessInit = true) {req : Size}
    {out : OutRegion} (hl : req.toNat ≤ out.len) :
    exec (.receive req out) s = .next (State.goTo { s with result := none }
      (if s.valid ≤ s.consumed then .refill else .scan) (startTransfer req out s)) := by
  have hfits : ¬out.len < req.toNat := by omega
  by_cases he : s.valid ≤ s.consumed <;> simp [exec, execReceive, whenIdle_eq hf hc, hi, hfits, he]

/-- Settles O13: the transfer registers of `startTransfer`, in the phase that the session's state asks for. -/
theorem receiveStartsATransfer : Obligations.ReceiveStartsATransfer :=
  fun s req out hf hc hi hl => ⟨_, startTransfer req out s, exec_receive_accepted hf hc hi hl, rfl, rfl, rfl, rfl, rfl, rfl,
    fun _ => rfl, fun _ => rfl⟩

/-! ## Where there is no move (R130, R143, R244) -/

theorem whenIdle_busy (hf : s.fault = none) (hc : s.ctl = .busy ph x) (o : Host.Outcome State Fault Refusal) :
    whenIdle s o = .refused .hostBlocked := by
  simp only [whenIdle, hf, hc]

theorem inScan_of_not_scan (hf : s.fault = none) (hc : ∀ x, s.ctl ≠ .busy .scan x)
    (o : Transfer → Host.Outcome State Fault Refusal) : inScan s o = .refused .notScanning := by
  unfold inScan
  split
  · next hf' => cases hf.symm.trans hf'
  · next hc' => exact absurd hc' (hc _)
  · rfl

/-- R244: a host operation, or the host's frame, asks for an Idle block. -/
theorem exec_hostOperation_busy (hf : s.fault = none) (hc : s.ctl = .busy ph x)
    (hi : i.channel = none ∨ ∃ cmd arg, i = .cmdFrame cmd arg) : exec i s = .refused .hostBlocked := by
  cases i with
  | cmdFrame _ _ | init | encodeCmd _ _ | ackByte | receive _ _ => exact whenIdle_busy hf hc _
  | sizeAnnounce _ _ | data1 _ _ | data2 _ _ _ | data3 _ _ _ | endMark _ | unknown _ _ | ack =>
    obtain hi | ⟨_, _, hi⟩ := hi <;> cases hi

/-- R143: a group asks for Scan. -/
theorem exec_group_of_not_scan (hf : s.fault = none) (hc : ∀ x, s.ctl ≠ .busy .scan x) (hi : isGroup i) :
    exec i s = .refused .notScanning := by
  cases i with
  | sizeAnnounce _ _ | data1 _ _ | data2 _ _ _ | data3 _ _ _ | endMark _ | unknown _ _ => exact inScan_of_not_scan hf hc _
  | cmdFrame _ _ | ack | init | encodeCmd _ _ | ackByte | receive _ _ => cases hi

theorem exec_ack_not_due (hf : s.fault = none) (hc : s.ctl = .busy .refill x ∨ s.ctl = .busy .scan x) :
    exec .ack s = .refused .noAckDue := by
  obtain hc | hc := hc <;> simp only [exec, execAck, hf, hc]

/-- Settles O14: each of the three kinds of instruction tests the phase it has its move in. -/
theorem noMoveOutsideItsPhase : Obligations.NoMoveOutsideItsPhase :=
  ⟨fun _ _ _ _ => exec_hostOperation_busy, fun _ _ => exec_group_of_not_scan, fun _ _ => exec_ack_not_due⟩

/-! ## Groups that a transfer waits for (R162, R165) -/

theorem announced_eq_iff {len : BitVec 16} {req : Size} : announced len = req ↔ len.toNat = req.toNat := by
  have hwide : (announced len).toNat = len.toNat := BitVec.toNat_setWidth_of_le (by decide)
  exact ⟨fun h => h ▸ hwide.symm, fun h => BitVec.eq_of_toNat_eq (hwide.trans h)⟩

/-- Settles O15: of the two cases of `sizeStep_cases`, the lengths leave the match. -/
theorem matchingSizeStartsReceiving : Obligations.MatchingSizeStartsReceiving := by
  intro s x b1 len hf hc hx hlen
  have hexec : exec (.sizeAnnounce b1 len) s = .next (sizeStep len s x) := inScan_eq hf hc _
  obtain ⟨-, -, e⟩ | ⟨hne, -⟩ := sizeStep_cases len s x
  · rw [hexec, e]; rfl
  · exact absurd ⟨hx, announced_eq_iff.2 hlen⟩ hne

/-- R166 to R168: a DATA group in Scan is dispatched with the payload that `chunkOf` names. -/
theorem exec_chunk {bs : List Byte} (hf : s.fault = none) (hc : s.ctl = .busy .scan x) (hb : chunkOf i = some bs) :
    ∃ tag, exec i s = .next (dataStep tag bs s x) := by
  cases i with
  | data1 _ _ | data2 _ _ _ | data3 _ _ _ => cases hb; exact ⟨_, inScan_eq hf hc _⟩
  | _ => cases hb

/-- R165: in Receiving, a chunk that fits is accepted. -/
theorem dataStep_of_fits {bs : List Byte} (hx : x.tstate = .receiving) (hfit : x.written + bs.length ≤ x.req.toNat)
    (tag : Byte) (s : State) : dataStep tag bs s x = acceptChunk bs s x := by
  have hno : ¬x.req.toNat < x.written + bs.length := by omega
  simp [dataStep, hx, hno]

theorem acceptChunk_ctl (bs : List Byte) (s : State) (x : Transfer) :
    (acceptChunk bs s x).ctl = if x.written + bs.length = x.req.toNat then
        .busy .completeAck { x with written := x.written + bs.length, tstate := .waitingForEnd }
      else .busy .scan { x with written := x.written + bs.length, p := x.p + 4 } := by
  by_cases h : x.written + bs.length = x.req.toNat <;> simp [acceptChunk, h]

theorem acceptChunk_frame (bs : List Byte) (s : State) (x : Transfer) :
    { acceptChunk bs s x with ctl := s.ctl, hostMem := s.hostMem } = s := by
  by_cases h : completes (x.written + bs.length) x.req = true <;> simp only [acceptChunk, h] <;> rfl

theorem acceptChunk_hostMem (bs : List Byte) (s : State) (x : Transfer) :
    (acceptChunk bs s x).hostMem = outWrites s.hostMem x.out x.written bs := by
  by_cases h : x.written + bs.length = x.req.toNat <;> simp [acceptChunk, h]

/-- R165: index `i + k` of the region holds byte `k` of the payload stored from `i` on. -/
theorem read_outWrites_payload (m : Memory) (out : OutRegion) (i : Nat) {bs : List Byte} {k : Nat} (hk : k < bs.length) :
    (outWrites m out i bs).read (outAddr out (i + k)) = bs[k]? := by
  have hindex : outAddr out (i + k) - outAddr out i = k := by simp only [outAddr]; omega
  rw [read_outWrites, if_pos (by simp only [outAddr]; omega), hindex]

theorem read_outWrites_outside (m : Memory) {out : OutRegion} {i a : Nat} {bs : List Byte}
    (ha : a < outAddr out i ∨ outAddr out i + bs.length ≤ a) : (outWrites m out i bs).read a = m.read a := by
  rw [read_outWrites, if_neg (by omega)]

/-- Settles O17: a chunk that fits is accepted, which stores its payload and counts it. -/
theorem fittingChunkIsStored : Obligations.FittingChunkIsStored := by
  intro s x i bs hf hc hb hx hfit
  obtain ⟨tag, hexec⟩ := exec_chunk hf hc hb
  rw [dataStep_of_fits hx hfit] at hexec
  refine ⟨_, hexec, acceptChunk_ctl bs s x, acceptChunk_frame bs s x, fun k hk => ?_, fun a ha => ?_⟩
  · rw [acceptChunk_hostMem]; exact read_outWrites_payload _ _ _ hk
  · rw [acceptChunk_hostMem]; exact read_outWrites_outside _ ha

/-! ## What a step runs (R139, R143, R144, R146, R200) -/

/-- Settles O33: the fetch in each of the three ack phases is ACK. -/
theorem stepWritesTheDueAck : Obligations.StepWritesTheDueAck := by
  intro s ph x hf hc hph
  obtain rfl | rfl | rfl := hph <;> simp only [step, fetch, hf, hc]

/-- Settles O32: the fetch in an Idle block is the host's next move, and a move that asks for an instruction runs it. -/
theorem stepRunsTheHostsRequest : Obligations.StepRunsTheHostsRequest := by
  intro s a rest i hf hc hq hr
  simp only [step, fetch_idle hf hc, fetchHost, hq, hostMove_of_requested hr]
  rfl

/-- R140, R238: the end of a pass is tested first. -/
theorem fetchScan_of_passEnded (hp : s.valid ≤ x.p) : fetchScan s x = .move (endPassStep s x) := by
  simp [fetchScan, hp]

/-- R142, R238: then the partial trailing group. -/
theorem fetchScan_of_endsInside (hp : x.p < s.valid) (hv : s.valid < x.p + 4) :
    fetchScan s x = .move (s.raiseFault .partialGroup) := by
  have hgoes : ¬s.valid ≤ x.p := by omega
  simp [fetchScan, hgoes, hv]

/-- R143: then the group at the cursor is dispatched. -/
theorem fetchScan_of_group {g : Group} (hp : x.p + 4 ≤ s.valid) (hg : readGroup s.raw x.p = some g) :
    fetchScan s x = .run (decodeGroup g) s := by
  have hgoes : ¬s.valid ≤ x.p := by omega
  have hwhole : ¬s.valid < x.p + 4 := by omega
  simp [fetchScan, hgoes, hwhole, hg]

/-- Settles O28: the first test of Scan. -/
theorem endOfPassRefills : Obligations.EndOfPassRefills := by
  intro s x hf hc hp
  simp only [step, fetch_scan hf hc, fetchScan_of_passEnded hp]
  rfl

/-- Settles O29: the second test of Scan. -/
theorem partialTrailingGroupFaults : Obligations.PartialTrailingGroupFaults := by
  intro s x hf hc hp hv
  simp only [step, fetch_scan hf hc, fetchScan_of_endsInside hp hv, raiseFault_eq hf]

/-- Settles O31: both tests of Scan passed, the four cells are the group that is dispatched. -/
theorem stepRunsTheGroupAtTheCursor : Obligations.StepRunsTheGroupAtTheCursor := by
  intro s x t b1 b2 b3 i hf hc hp h0 h1 h2 h3 hd
  have hg : readGroup s.raw x.p = some ⟨t, b1, b2, b3⟩ := readGroup_eq_some.2 ⟨h0, h1, h2, h3⟩
  cases hd
  simp only [step, fetch_scan hf hc, fetchScan_of_group hp hg]

/-! ## States that agree but for the transport's side -/

theorem physicalRead_sameButWire (s : State) : SameButWire s s.physicalRead := by
  simp [SameButWire, SameRegisters]

theorem ackWrite_sameButWire (s : State) : SameButWire s s.ackWrite := by
  simp [SameButWire, SameRegisters]

theorem SameButWire.goTo (h : SameButWire s t) (ph : OpPhase) (x : Transfer) :
    SameButWire (s.goTo ph x) (t.goTo ph x) := by
  obtain ⟨⟨hcfg, hraw, hk, hv, hi, -, hf, hr, hd⟩, hm, hq⟩ := h
  exact ⟨⟨hcfg, hraw, hk, hv, hi, rfl, hf, hr, hd⟩, hm, hq⟩

theorem SameButWire.returnWith (h : SameButWire s t) (r : Result) :
    SameButWire (s.returnWith r) (t.returnWith r) := by
  obtain ⟨⟨hcfg, hraw, hk, hv, hi, -, hf, -, hd⟩, hm, hq⟩ := h
  exact ⟨⟨hcfg, hraw, hk, hv, hi, rfl, hf, rfl, hd⟩, hm, hq⟩

theorem SameButWire.raiseFault (h : SameButWire s t) (k : FaultKind) :
    SameButWire (s.raiseFault k) (t.raiseFault k) := by
  obtain ⟨⟨hcfg, hraw, hk, hv, hi, hc, hf, hr, hd⟩, hm, hq⟩ := h
  exact ⟨⟨hcfg, hraw, hk, hv, hi, hc, by rw [raiseFault_fault, raiseFault_fault, hf], hr, hd⟩, hm, hq⟩

/-- R147: the offset an abort sets is read off registers that agree. -/
theorem SameButWire.abort (h : SameButWire s t) (ph : OpPhase) (x : Transfer) (e : RxError) :
    SameButWire (s.abort ph x e) (t.abort ph x e) := by
  obtain ⟨⟨hcfg, hraw, hk, hv, hi, -, hf, -, hd⟩, hm, hq⟩ := h
  have hoffset : abortOffset s ph x = abortOffset t ph x := by simp only [abortOffset, hcfg, hk, hv]
  exact ⟨⟨hcfg, hraw, hoffset, hv, hi, rfl, hf, rfl, hd⟩, hm, hq⟩

/-! ## Acks (R139, R141, R144, R146) -/

/-- R60, R141: an ack step that is one of two states by the transport's answer meets what either answer asks for. -/
theorem ack_answered {onOk a : State} {onErr b : TransportCode → State}
    (h : (nextWriteAnswer s = .ok ∧ t = onOk) ∨ ∃ c, nextWriteAnswer s = .err c ∧ t = onErr c)
    (hok : AckOnWire s onOk ∧ SameButWire a onOk) (herr : ∀ c, AckOnWire s (onErr c) ∧ SameButWire (b c) (onErr c)) :
    AckOnWire s t ∧ (nextWriteAnswer s = .ok → SameButWire a t) ∧
      ∀ c, nextWriteAnswer s = .err c → SameButWire (b c) t := by
  obtain ⟨ha, rfl⟩ | ⟨c, ha, rfl⟩ := h
  · exact ⟨hok.1, fun _ => hok.2, fun c hc => nomatch ha.symm.trans hc⟩
  · refine ⟨(herr c).1, fun hc => (nomatch ha.symm.trans hc), fun c' hc => ?_⟩
    cases ha.symm.trans hc
    exact (herr c).2

theorem exec_ack_timeoutAck (hf : s.fault = none) (hc : s.ctl = .busy .timeoutAck x) :
    exec .ack s = .next (timeoutAckStep s x) :=
  (stepWritesTheDueAck s _ x hf hc (.inl rfl)).symm.trans (step_timeoutAck hf hc)

theorem exec_ack_completeAck (hf : s.fault = none) (hc : s.ctl = .busy .completeAck x) :
    exec .ack s = .next (completeAckStep s x) :=
  (stepWritesTheDueAck s _ x hf hc (.inr (.inl rfl))).symm.trans (step_completeAck hf hc)

theorem exec_ack_finalAck (hf : s.fault = none) (hc : s.ctl = .busy .finalAck x) :
    exec .ack s = .next (finalAckStep s x) :=
  (stepWritesTheDueAck s _ x hf hc (.inr (.inr rfl))).symm.trans (step_finalAck hf hc)

/-- Settles O21: the write, then Refill or an abort, which from TimeoutAck keeps `consumed`. -/
theorem timeoutAckGoesBackToRefill : Obligations.TimeoutAckGoesBackToRefill := by
  intro s x hf hc
  have hw := ackWrite_sameButWire s
  exact ⟨_, exec_ack_timeoutAck hf hc, ack_answered (timeoutAckStep_cases s x)
    ⟨⟨rfl, rfl, rfl⟩, hw.goTo .refill x⟩ fun c => ⟨⟨rfl, rfl, rfl⟩, hw.abort .timeoutAck x (.transport c)⟩⟩

/-- Settles O22: the write, then Scan past the group or an abort, which from CompleteAck follows the policy. -/
theorem completionAckGoesOnScanning : Obligations.CompletionAckGoesOnScanning := by
  intro s x hf hc
  have hw := ackWrite_sameButWire s
  exact ⟨_, exec_ack_completeAck hf hc, ack_answered (completeAckStep_cases s x)
    ⟨⟨rfl, rfl, rfl⟩, hw.goTo .scan { x with p := x.p + 4 }⟩
    fun c => ⟨⟨rfl, rfl, rfl⟩, hw.abort .completeAck x (.transport c)⟩⟩

/-- Settles O23: the write, then the return of either result. -/
theorem finalAckReturns : Obligations.FinalAckReturns := by
  intro s x hf hc
  have hw := ackWrite_sameButWire s
  exact ⟨_, exec_ack_finalAck hf hc, ack_answered (finalAckStep_cases s x)
    ⟨⟨rfl, rfl, rfl⟩, hw.returnWith (.ok x.req)⟩ fun c => ⟨⟨rfl, rfl, rfl⟩, hw.returnWith (.err (.transport c))⟩⟩

/-! ## Physical reads (R134 to R138) -/

theorem step_refill_fits {bs : List Byte} (hf : s.fault = none) (hc : s.ctl = .busy .refill x)
    (ha : nextReadAnswer s = .ok bs) (hb : bs.length ≤ s.cfg.cap) :
    step s = .next (fillBuffer s.physicalRead x bs) := by
  have hno : ¬s.cfg.cap < bs.length := by omega
  simp [step_refill hf hc, refillStep, ha, hno]

theorem step_refill_overrun {bs : List Byte} (hf : s.fault = none) (hc : s.ctl = .busy .refill x)
    (ha : nextReadAnswer s = .ok bs) (hb : s.cfg.cap < bs.length) :
    step s = .next (s.physicalRead.raiseFault .transportOverrun) := by
  simp [step_refill hf hc, refillStep, ha, hb]

theorem step_refill_err {c : TransportCode} (hf : s.fault = none) (hc : s.ctl = .busy .refill x)
    (ha : nextReadAnswer s = .err c) : step s = .next (s.physicalRead.abort .refill x (.transport c)) := by
  simp only [step_refill hf hc, refillStep, ha]

theorem fillBuffer_sameButWire (h : SameButWire s t) (x : Transfer) (bs : List Byte) :
    SameButWire { s with raw := t.raw.writeBlock 0 bs, consumed := 0, valid := bs.length,
                         ctl := .busy .scan { x with p := 0 } } (fillBuffer t x bs) := by
  obtain ⟨⟨hcfg, -, -, -, hi, -, hf, hr, hd⟩, hm, hq⟩ := h
  exact ⟨⟨hcfg, rfl, rfl, rfl, hi, rfl, hf, hr, hd⟩, hm, hq⟩

/-- Settles O24: the bytes are one block stored at cell 0 (`read_writeBlock`). -/
theorem physicalReadFillsTheBuffer : Obligations.PhysicalReadFillsTheBuffer := by
  intro s x bs hf hc ha hb
  refine ⟨_, step_refill_fits hf hc ha hb, ⟨rfl, rfl, rfl⟩,
    fillBuffer_sameButWire (physicalRead_sameButWire s) x bs, fun k hk => ?_, fun k hk => ?_⟩
  · simp [fillBuffer, read_writeBlock, hk]
  · simp [fillBuffer, read_writeBlock, hk.not_gt]

/-- Settles O25: the read, then the fault. -/
theorem overlongReadFaults : Obligations.OverlongReadFaults := by
  intro s x bs hf hc ha hb
  exact ⟨_, step_refill_overrun hf hc ha hb, ⟨rfl, rfl, rfl⟩,
    raiseFault_eq hf .transportOverrun ▸ (physicalRead_sameButWire s).raiseFault .transportOverrun⟩

/-- Settles O26: of the five cases of `refillStep_cases`, the answer leaves the two in which the limit is or is not exceeded. -/
theorem readTimeoutCountsAndAcks : Obligations.ReadTimeoutCountsAndAcks := by
  intro s x hf hc ha
  have hr := physicalRead_sameButWire s
  refine ⟨_, step_refill hf hc, ?_⟩
  obtain ⟨_, ha', -⟩ | ⟨_, ha', -⟩ | ⟨-, ⟨l, hl, hlt⟩, e⟩ | ⟨-, hle, e⟩ | ⟨_, ha', -⟩ := refillStep_cases s x
  · cases ha.symm.trans ha'
  · cases ha.symm.trans ha'
  · rw [e]
    exact ⟨⟨rfl, rfl, rfl⟩, fun _ => hr.abort .refill x .timeout, fun hle => absurd (hle l hl) hlt.not_ge⟩
  · rw [e]
    exact ⟨⟨rfl, rfl, rfl⟩, fun ⟨l, hl, hlt⟩ => absurd (hle l hl) hlt.not_ge, fun _ => hr.goTo .timeoutAck _⟩
  · cases ha.symm.trans ha'

/-- Settles O27: the read, then an abort, which from Refill keeps `consumed`. -/
theorem failedReadAborts : Obligations.FailedReadAborts := by
  intro s x c hf hc ha
  exact ⟨_, step_refill_err hf hc ha, ⟨rfl, rfl, rfl⟩,
    (physicalRead_sameButWire s).abort .refill x (.transport c)⟩

/-- Settles O45: of the five things a step can put on the record, only a refill's read is the framer's, and in Refill the
invariant has the session exhausted. -/
theorem readsOnlyWhenExhausted : Obligations.ReadsOnlyWhenExhausted := by
  intro s t ep max tmo a h hs hw
  obtain ⟨-, hst⟩ := step_cases hs
  obtain e | ⟨⟨x, hc⟩, e⟩ | ⟨-, e⟩ | ⟨bytes, r, e⟩ | ⟨r, e⟩ := hst.calls
  · simp [e] at hw
  · simp only [e, physicalRead_calls, List.append_cancel_left_eq, List.cons.injEq, TransportCall.framerRead.injEq] at hw
    obtain ⟨⟨hep, hmax, -, -⟩, -⟩ := hw
    exact ⟨h.phase _ x hc, hep.symm, hmax.symm, x, hc⟩
  · simp [e] at hw
  · simp [e] at hw
  · simp [e] at hw

/-! ## How a RECEIVE returns (R146 to R148, R150) -/

/-- R147: if the block is Idle, it shows an error. -/
def ErrorIfIdle (t : State) : Prop := t.ctl = .idle → ∃ e, t.result = some (.err e)

theorem abort_errorIfIdle (s : State) (ph : OpPhase) (x : Transfer) (e : RxError) : ErrorIfIdle (s.abort ph x e) :=
  fun _ => ⟨e, rfl⟩

theorem errorIfIdle_of_busy (hc : t.ctl = .busy ph x) : ErrorIfIdle t :=
  fun hidle => nomatch hc.symm.trans hidle

theorem refillStep_errorIfIdle (hc : s.ctl = .busy .refill x) : ErrorIfIdle (refillStep s x) := by
  obtain ⟨bs, -, -, e⟩ | ⟨bs, -, -, e⟩ | ⟨-, -, e⟩ | ⟨-, -, e⟩ | ⟨c, -, e⟩ := refillStep_cases s x <;> rw [e]
  · exact errorIfIdle_of_busy hc
  · exact errorIfIdle_of_busy rfl
  · exact abort_errorIfIdle _ _ _ _
  · exact errorIfIdle_of_busy rfl
  · exact abort_errorIfIdle _ _ _ _

theorem timeoutAckStep_errorIfIdle (s : State) (x : Transfer) : ErrorIfIdle (timeoutAckStep s x) := by
  obtain ⟨-, e⟩ | ⟨c, -, e⟩ := timeoutAckStep_cases s x <;> rw [e]
  · exact errorIfIdle_of_busy rfl
  · exact abort_errorIfIdle _ _ _ _

theorem completeAckStep_errorIfIdle (s : State) (x : Transfer) : ErrorIfIdle (completeAckStep s x) := by
  obtain ⟨-, e⟩ | ⟨c, -, e⟩ := completeAckStep_cases s x <;> rw [e]
  · exact errorIfIdle_of_busy rfl
  · exact abort_errorIfIdle _ _ _ _

theorem GroupRun.errorIfIdle (hr : GroupRun s x t) : ErrorIfIdle t := by
  cases hr with
  | size len =>
    obtain ⟨-, -, e⟩ | ⟨-, k, v, e⟩ := sizeStep_cases len s x <;> rw [e] <;> exact errorIfIdle_of_busy rfl
  | data tag bs _ _ =>
    obtain ⟨-, -, e⟩ | ⟨-, -, e⟩ | ⟨-, -, e⟩ | ⟨-, e⟩ := dataStep_cases tag bs s x <;> rw [e]
    · exact abort_errorIfIdle _ _ _ _
    · exact errorIfIdle_of_busy rfl
    · exact errorIfIdle_of_busy rfl
    · exact errorIfIdle_of_busy rfl
  | endMark => obtain ⟨-, e⟩ | ⟨-, e⟩ := endStep_cases s x <;> rw [e] <;> exact errorIfIdle_of_busy rfl
  | unknown t => exact errorIfIdle_of_busy rfl

/-- R237: from inside a RECEIVE, a step other than the final ack's returns nothing but an error. -/
theorem StepTo.finalAck_or_errorIfIdle (hs : StepTo s t) (hc : s.ctl = .busy ph x) :
    (ph = .finalAck ∧ t = finalAckStep s x) ∨ ErrorIfIdle t := by
  cases hs with
  | refill y hy => exact .inr (refillStep_errorIfIdle hy)
  | timeoutAck y _ => exact .inr (timeoutAckStep_errorIfIdle s y)
  | completeAck y _ => exact .inr (completeAckStep_errorIfIdle s y)
  | finalAck y hy => cases hc.symm.trans hy; exact .inl ⟨rfl, rfl⟩
  | endPass y _ _ => exact .inr (errorIfIdle_of_busy rfl)
  | partialGroup y _ _ _ => exact .inr (errorIfIdle_of_busy hc)
  | group y _ _ _ _ _ hr => exact .inr hr.errorIfIdle
  | _ => exact nomatch hc.symm.trans ‹s.ctl = .idle›

/-- Settles O44: only the final ack's step returns a success, and its answer decides. -/
theorem okOnlyThroughTheFinalAck : Obligations.OkOnlyThroughTheFinalAck := by
  intro s t ph x hc hs hidle
  obtain ⟨-, hst⟩ := step_cases hs
  obtain ⟨hph, rfl⟩ | herr := hst.finalAck_or_errorIfIdle hc
  · obtain ⟨ha, e⟩ | ⟨c, -, e⟩ := finalAckStep_cases s x
    · exact .inl ⟨by rw [e, returnWith_result], hph, ha⟩
    · exact .inr ⟨.transport c, by rw [e, returnWith_result]⟩
  · exact .inr (herr hidle)

end Sys2Proof.Machine
end

section
/-! PROOFS. The tag dispatcher (spec/42_tag_dispatch.md): what a group that is ignored, overflows or ends the transfer does in
Scan, and the reassembly law. `Progress` says once what one step of a RECEIVE does to its transfer registers and to the output
region; a RECEIVE that cannot succeed, and the law as an induction over steps, are read off it. -/

namespace Sys2Proof.Machine

variable {s t u : State} {ph : OpPhase} {x : Transfer} {i : Instr} {bs : List Byte} {out : OutRegion}

/-! ## The dispatch of one group (R161 to R174) -/

/-- R240: emitting an event and passing the group changes nothing but the cursor and the trace. -/
theorem emit_nextGroup_sameButDiag (s : State) (x : Transfer) (k : DiagKind) (p v : Nat) :
    SameButDiag ((s.emit k p v).nextGroup x) { s with ctl := .busy .scan { x with p := x.p + 4 } } := rfl

/-- R163, R164: an announcement that does not match, or is out of place. -/
theorem sizeStep_ignored {len : BitVec 16} (hne : ¬(x.tstate = .waitingForSize ∧ len.toNat = x.req.toNat)) (s : State) :
    SameButDiag (sizeStep len s x) { s with ctl := .busy .scan { x with p := x.p + 4 } } := by
  obtain ⟨hx, hlen, -⟩ | ⟨-, k, v, e⟩ := sizeStep_cases len s x
  · exact absurd ⟨hx, announced_eq_iff.1 hlen⟩ hne
  · exact e ▸ emit_nextGroup_sameButDiag s x k x.p v

/-- R169, R170: DATA outside Receiving. -/
theorem dataStep_ignored (hx : x.tstate ≠ .receiving) (tag : Byte) (bs : List Byte) (s : State) :
    SameButDiag (dataStep tag bs s x) { s with ctl := .busy .scan { x with p := x.p + 4 } } := by
  obtain ⟨hr, -⟩ | ⟨hr, -⟩ | ⟨hr, -⟩ | ⟨-, e⟩ := dataStep_cases tag bs s x
  · exact absurd hr hx
  · exact absurd hr hx
  · exact absurd hr hx
  · exact e ▸ emit_nextGroup_sameButDiag s x _ _ _

/-- R172: END outside WaitingForEnd. -/
theorem endStep_ignored (hx : x.tstate ≠ .waitingForEnd) (s : State) :
    SameButDiag (endStep s x) { s with ctl := .busy .scan { x with p := x.p + 4 } } := by
  obtain ⟨he, -⟩ | ⟨-, e⟩ := endStep_cases s x
  · exact absurd he hx
  · exact e ▸ emit_nextGroup_sameButDiag s x _ _ _

/-- Settles O16: one ignored case for each class of group; no other instruction is `Ignored`. -/
theorem ignoredGroupsOnlyAdvance : Obligations.IgnoredGroupsOnlyAdvance := by
  intro s x i hf hc hi
  cases i with
  | sizeAnnounce b1 len => exact ⟨_, inScan_eq hf hc _, sizeStep_ignored hi s⟩
  | data1 _ _ | data2 _ _ _ | data3 _ _ _ => exact ⟨_, inScan_eq hf hc _, dataStep_ignored hi _ _ s⟩
  | endMark _ => exact ⟨_, inScan_eq hf hc _, endStep_ignored hi s⟩
  | unknown _ _ => exact ⟨_, inScan_eq hf hc _, emit_nextGroup_sameButDiag s x _ _ _⟩
  | cmdFrame _ _ | ack | init | encodeCmd _ _ | ackByte | receive _ _ => exact hi.elim

/-- R165: in Receiving, a chunk that would pass `req` aborts before any write (R176, R238). -/
theorem dataStep_of_overflows (hx : x.tstate = .receiving) (ho : x.req.toNat < x.written + bs.length) (tag : Byte)
    (s : State) : dataStep tag bs s x = s.abort .scan x .overflow := by
  simp [dataStep, hx, ho]

/-- Settles O18: the abort from Scan, whose offset is the policy's, stores nothing. -/
theorem overflowingChunkAborts : Obligations.OverflowingChunkAborts := by
  intro s x i bs hf hc hb hx ho
  obtain ⟨tag, hexec⟩ := exec_chunk hf hc hb
  rw [dataStep_of_overflows hx ho] at hexec
  exact ⟨_, hexec, rfl, rfl, rfl, rfl, fun _ _ => rfl⟩

/-- Settles O19: in WaitingForEnd, END is R145's `State.finish`. -/
theorem endRecordsThePosition : Obligations.EndRecordsThePosition := by
  intro s x pad hf hc hx
  have hexec : exec (.endMark pad) s = .next (endStep s x) := inScan_eq hf hc _
  obtain ⟨-, e⟩ | ⟨hne, -⟩ := endStep_cases s x
  · rw [hexec, e]; rfl
  · exact absurd hx hne

/-- Settles O20: the meanings of the five forms are functions of their other operands. -/
theorem ignoredBytesHaveNoEffect : Obligations.IgnoredBytesHaveNoEffect :=
  fun _ _ _ _ _ _ _ _ _ _ _ => ⟨rfl, rfl, rfl, rfl, rfl⟩

/-! ## What one step of a RECEIVE does (R162, R165, R237) -/

/-- A step of a RECEIVE with transfer registers `x` ends it, or goes on with the same operands: it stores `bs` from index
`written` on and counts it, and leaves WaitingForSize only on an announcement that matches. -/
inductive Progress (s : State) (x : Transfer) (bs : List Byte) (t : State) : Prop where
  | ended (hc : t.ctl = .idle)
  | goesOn (ph : OpPhase) (y : Transfer) (hc : t.ctl = .busy ph y) (hreq : y.req = x.req) (hout : y.out = x.out)
      (hcount : y.written = x.written + bs.length) (hm : t.hostMem = outWrites s.hostMem x.out x.written bs)
      (hsize : x.tstate = .waitingForSize → y.tstate = .waitingForSize ∨ ∃ len, announced len = x.req)

theorem refillStep_progress (hc : s.ctl = .busy .refill x) : Progress s x [] (refillStep s x) := by
  obtain ⟨bs, -, -, e⟩ | ⟨bs, -, -, e⟩ | ⟨-, -, e⟩ | ⟨-, -, e⟩ | ⟨c, -, e⟩ := refillStep_cases s x <;> rw [e]
  · exact .goesOn _ x hc rfl rfl rfl rfl .inl
  · exact .goesOn _ _ rfl rfl rfl rfl rfl .inl
  · exact .ended rfl
  · exact .goesOn _ _ rfl rfl rfl rfl rfl .inl
  · exact .ended rfl

theorem timeoutAckStep_progress (s : State) (x : Transfer) : Progress s x [] (timeoutAckStep s x) := by
  obtain ⟨-, e⟩ | ⟨c, -, e⟩ := timeoutAckStep_cases s x <;> rw [e]
  · exact .goesOn _ _ rfl rfl rfl rfl rfl .inl
  · exact .ended rfl

theorem completeAckStep_progress (s : State) (x : Transfer) : Progress s x [] (completeAckStep s x) := by
  obtain ⟨-, e⟩ | ⟨c, -, e⟩ := completeAckStep_cases s x <;> rw [e]
  · exact .goesOn _ _ rfl rfl rfl rfl rfl .inl
  · exact .ended rfl

theorem finalAckStep_progress (s : State) (x : Transfer) : Progress s x [] (finalAckStep s x) :=
  .ended (finalAckStep_endsReceive s x).1

/-- R162: a matching announcement sets `written` to 0, which the invariant says it was. -/
theorem sizeStep_progress (ht : TransferInv s.cfg x) (len : BitVec 16) : Progress s x [] (sizeStep len s x) := by
  obtain ⟨hx, hlen, e⟩ | ⟨-, k, v, e⟩ := sizeStep_cases len s x <;> rw [e]
  · exact .goesOn _ _ rfl rfl rfl (ht.unstarted hx).symm rfl fun _ => .inr ⟨len, hlen⟩
  · exact .goesOn _ _ rfl rfl rfl rfl rfl .inl

theorem endStep_progress (s : State) (x : Transfer) : Progress s x [] (endStep s x) := by
  obtain ⟨-, e⟩ | ⟨-, e⟩ := endStep_cases s x <;> rw [e] <;> exact .goesOn _ _ rfl rfl rfl rfl rfl .inl

/-- R165: the bytes that a DATA group adds to the transfer: its payload in Receiving if it fits, else none. -/
def takenBytes (x : Transfer) (bs : List Byte) : List Byte :=
  if x.tstate = .receiving ∧ x.written + bs.length ≤ x.req.toNat then bs else []

theorem dataStep_progress (tag : Byte) (bs : List Byte) (s : State) (x : Transfer) :
    Progress s x (takenBytes x bs) (dataStep tag bs s x) := by
  obtain ⟨-, -, e⟩ | ⟨hx, hn, e⟩ | ⟨hx, hn, e⟩ | ⟨hx, e⟩ := dataStep_cases tag bs s x <;> rw [e]
  · exact .ended rfl
  · rw [takenBytes, if_pos ⟨hx, hn.le⟩]
    exact .goesOn _ _ rfl rfl rfl rfl rfl fun h => nomatch hx.symm.trans h
  · rw [takenBytes, if_pos ⟨hx, hn.le⟩]
    exact .goesOn _ _ rfl rfl rfl rfl rfl .inl
  · rw [takenBytes, if_neg fun h => hx h.1]
    exact .goesOn _ _ rfl rfl rfl rfl rfl .inl

/-- R81, R160: the group at the cursor is dispatched by its class, and `chunkOf` names the payload of the DATA groups only. -/
theorem exec_decodeGroup_dispatch {g : Group} (hc : s.ctl = .busy .scan x) (he : exec (decodeGroup g) s = .next t) :
    (∃ tag bs, chunkOf (decodeGroup g) = some bs ∧ t = dataStep tag bs s x) ∨
    (chunkOf (decodeGroup g) = none ∧
      ((∃ len, t = sizeStep len s x) ∨ t = endStep s x ∨ ∃ v, t = (s.emit .unknownTag x.p v).nextGroup x)) := by
  unfold decodeGroup at he ⊢
  split_ifs at he ⊢
  all_goals
    obtain ⟨y, -, hy, he⟩ := inScan_next he
    cases hc.symm.trans hy
    cases he
  · exact .inr ⟨rfl, .inl ⟨_, rfl⟩⟩
  · exact .inl ⟨_, _, rfl, rfl⟩
  · exact .inl ⟨_, _, rfl, rfl⟩
  · exact .inl ⟨_, _, rfl, rfl⟩
  · exact .inr ⟨rfl, .inr (.inl rfl)⟩
  · exact .inr ⟨rfl, .inr (.inr ⟨_, rfl⟩)⟩

/-! ## The accepted payloads (R175) -/

/-- R143: outside Scan no group is examined. -/
theorem acceptedBytes_of_busy (hc : s.ctl = .busy ph x) (hph : ph ≠ .scan) : acceptedBytes s = [] := by
  unfold acceptedBytes
  split
  · next h => cases hc.symm.trans h; exact absurd rfl hph
  · rfl

/-- Where no whole group is left to scan, none is accepted. -/
theorem acceptedBytes_of_no_group (hc : s.ctl = .busy .scan x) (hv : s.valid < x.p + 4) : acceptedBytes s = [] := by
  simp only [acceptedBytes, hc]
  exact if_neg fun h => hv.not_ge h.2

theorem acceptedBytes_of_chunk {g : Group} (hc : s.ctl = .busy .scan x) (hp : x.p + 4 ≤ s.valid)
    (hg : readGroup s.raw x.p = some g) (hb : chunkOf (decodeGroup g) = some bs) : acceptedBytes s = takenBytes x bs := by
  by_cases hx : x.tstate = .receiving <;> simp [acceptedBytes, takenBytes, hc, hp, hg, hb, hx]

theorem acceptedBytes_of_no_chunk {g : Group} (hc : s.ctl = .busy .scan x) (hg : readGroup s.raw x.p = some g)
    (hb : chunkOf (decodeGroup g) = none) : acceptedBytes s = [] := by
  simp [acceptedBytes, hc, hg, hb]

/-- A group makes the progress that `acceptedBytes` names. -/
theorem exec_decodeGroup_progress {g : Group} (ht : TransferInv s.cfg x) (hc : s.ctl = .busy .scan x)
    (hp : x.p + 4 ≤ s.valid) (hg : readGroup s.raw x.p = some g) (he : exec (decodeGroup g) s = .next t) :
    Progress s x (acceptedBytes s) t := by
  obtain ⟨tag, bs, hb, rfl⟩ | ⟨hb, hrun⟩ := exec_decodeGroup_dispatch hc he
  · rw [acceptedBytes_of_chunk hc hp hg hb]
    exact dataStep_progress tag bs s x
  · rw [acceptedBytes_of_no_chunk hc hg hb]
    obtain ⟨len, rfl⟩ | rfl | ⟨v, rfl⟩ := hrun
    · exact sizeStep_progress ht len
    · exact endStep_progress s x
    · exact .goesOn _ _ rfl rfl rfl rfl rfl .inl

/-- R175: every step of a RECEIVE makes the progress that `acceptedBytes` names; outside the dispatch of a group it is none. -/
theorem StepTo.progress (h : s.Inv) (hs : StepTo s t) (hc : s.ctl = .busy ph x) : Progress s x (acceptedBytes s) t := by
  cases hs with
  | refill y hy =>
    cases hc.symm.trans hy
    exact acceptedBytes_of_busy hc nofun ▸ refillStep_progress hc
  | timeoutAck y hy =>
    cases hc.symm.trans hy
    exact acceptedBytes_of_busy hc nofun ▸ timeoutAckStep_progress s x
  | completeAck y hy =>
    cases hc.symm.trans hy
    exact acceptedBytes_of_busy hc nofun ▸ completeAckStep_progress s x
  | finalAck y hy =>
    cases hc.symm.trans hy
    exact acceptedBytes_of_busy hc nofun ▸ finalAckStep_progress s x
  | endPass y hy hp =>
    cases hc.symm.trans hy
    rw [acceptedBytes_of_no_group hc (by omega)]
    exact .goesOn _ _ rfl rfl rfl rfl rfl .inl
  | partialGroup y hy _ hv =>
    cases hc.symm.trans hy
    rw [acceptedBytes_of_no_group hc hv]
    exact .goesOn _ x hc rfl rfl rfl rfl .inl
  | group y g hy hp hg he _ =>
    cases hc.symm.trans hy
    exact exec_decodeGroup_progress (h.transfer _ x hc) hc hp hg he
  | _ => exact nomatch hc.symm.trans ‹s.ctl = .idle›

/-! ## A RECEIVE that cannot succeed (R162, R268) -/

/-- R29: the final ack is written for a full transfer that is not empty. -/
theorem State.Inv.finalAck_full (h : s.Inv) (hc : s.ctl = .busy .finalAck x) :
    x.written = x.req.toNat ∧ x.req ≠ 0 :=
  (h.transfer _ x hc).finished (h.phase _ x hc)

/-- Settles O47: the RECEIVE goes on with the same `req`, or returns an error, because no final ack is written for 0 bytes. -/
theorem zeroByteReceiveNeverSucceeds : Obligations.ZeroByteReceiveNeverSucceeds := by
  intro s t ph x h hc hreq hs
  obtain ⟨-, hst⟩ := step_cases hs
  cases hst.progress h hc with
  | goesOn ph' y hct hy => exact .inl ⟨ph', y, hct, hy.trans hreq⟩
  | ended hidle =>
    obtain ⟨rfl, -⟩ | herr := hst.finalAck_or_errorIfIdle hc
    · exact absurd hreq (h.finalAck_full hc).2
    · exact .inr ⟨hidle, herr hidle⟩

/-- R82: an announcement has 16 bits. -/
theorem announced_ne_of_oversize {req : Size} (hreq : 0xFFFF < req.toNat) (len : BitVec 16) : announced len ≠ req := by
  intro hlen
  have heq := announced_eq_iff.1 hlen
  have hlt := len.isLt
  omega

/-- Settles O48: WaitingForSize is left only on a match, which 16 bits cannot give, and the final ack is due in WaitingForEnd
only. -/
theorem oversizeReceiveNeverMatches : Obligations.OversizeReceiveNeverMatches := by
  intro s t ph x h hc hreq hx hs
  obtain ⟨-, hst⟩ := step_cases hs
  cases hst.progress h hc with
  | goesOn ph' y hct hy _ _ _ hsize =>
    obtain hw | ⟨len, hlen⟩ := hsize hx
    · exact .inl ⟨ph', y, hct, hy, hw, ((hst.inv h).transfer _ y hct).unstarted hw⟩
    · exact absurd hlen (announced_ne_of_oversize hreq len)
  | ended hidle =>
    obtain ⟨rfl, -⟩ | herr := hst.finalAck_or_errorIfIdle hc
    · exact nomatch hx.symm.trans (h.phase _ x hc)
    · exact .inr ⟨hidle, herr hidle⟩

/-! ## The reassembly law (R175) -/

/-- R54: a payload stored in two parts is stored as a whole. -/
theorem outWrites_append (m : Memory) (out : OutRegion) (k : Nat) (bs cs : List Byte) :
    outWrites m out k (bs ++ cs) = outWrites (outWrites m out k bs) out (k + bs.length) cs := by
  induction bs generalizing m k with
  | nil => rfl
  | cons b bs ih => simp only [List.cons_append, outWrites, ih, List.length_cons, Nat.add_assoc, Nat.add_comm 1]

theorem core_run_succ (hs : step s = .next u) (k : Nat) : Sys2Proof.core.run (k + 1) s = Sys2Proof.core.run k u := by
  simp only [Host.Core.run, Sys2Proof.core, hs]

theorem collected_succ (hs : step s = .next u) (k : Nat) : collected (k + 1) s = acceptedBytes s ++ collected k u := by
  simp only [collected, hs]

/-- A run of a RECEIVE that is not over yet takes its next step. -/
theorem insideReceive_succ {k : Nat} (h : insideReceive (k + 1) s) : ∃ u, step s = .next u ∧ insideReceive k u := by
  obtain ⟨-, h⟩ := h
  cases hs : step s with
  | next u => simp only [hs] at h; exact ⟨u, rfl, h⟩
  | fault f => simp only [hs] at h
  | refused r => simp only [hs] at h

/-- The steps of one RECEIVE stop when the block is Idle. -/
theorem insideReceive_idle {k : Nat} (h : insideReceive k s) (hc : s.ctl = .idle) : k = 0 := by
  cases k with
  | zero => rfl
  | succ k =>
    obtain ⟨⟨ph, x, hbusy⟩, -⟩ := h
    cases hc.symm.trans hbusy

/-- R146: the step that returns Ok(n) is the final ack's, of a full transfer, and stores nothing. -/
theorem StepTo.returnsOk {n : Size} (h : s.Inv) (hs : StepTo s t) (hc : s.ctl = .busy ph x) (hidle : t.ctl = .idle)
    (hr : t.result = some (.ok n)) :
    n = x.req ∧ x.written = x.req.toNat ∧ acceptedBytes s = [] ∧ t.hostMem = s.hostMem := by
  obtain ⟨rfl, rfl⟩ | herr := hs.finalAck_or_errorIfIdle hc
  · obtain ⟨-, e | ⟨_, e⟩⟩ := finalAckStep_endsReceive s x
    · cases hr.symm.trans e
      exact ⟨rfl, (h.finalAck_full hc).1, acceptedBytes_of_busy hc nofun, (finalAckStep_memory s x).2⟩
    · cases hr.symm.trans e
  · obtain ⟨_, e⟩ := herr hidle
    cases hr.symm.trans e

/-- The law from any point of a RECEIVE on: what is still accepted fills the transfer up, from where it stands. -/
theorem run_reassembles {n : Size} (k : Nat) (h : s.Inv) (hc : s.ctl = .busy ph x) (hin : insideReceive k s)
    (hrun : Sys2Proof.core.run k s = .next t) (hidle : t.ctl = .idle) (hr : t.result = some (.ok n)) :
    n = x.req ∧ x.written + (collected k s).length = x.req.toNat ∧
      t.hostMem = outWrites s.hostMem x.out x.written (collected k s) := by
  induction k generalizing s ph x with
  | zero =>
    cases hrun
    cases hc.symm.trans hidle
  | succ k ih =>
    obtain ⟨u, hs, hin'⟩ := insideReceive_succ hin
    rw [core_run_succ hs] at hrun
    rw [collected_succ hs]
    obtain ⟨-, hst⟩ := step_cases hs
    cases hst.progress h hc with
    | ended hu =>
      obtain rfl := insideReceive_idle hin' hu
      cases hrun
      obtain ⟨hn, hfull, hnone, hm⟩ := hst.returnsOk h hc hu hr
      rw [hnone]
      exact ⟨hn, hfull, hm⟩
    | goesOn ph' y hu hreq hout hcount hm =>
      obtain ⟨hn, hlen, hmem⟩ := ih (hst.inv h) hu hin' hrun
      rw [hreq, hcount] at hlen
      rw [hout, hcount, hm, ← outWrites_append] at hmem
      exact ⟨hn.trans hreq, by rw [List.length_append, ← Nat.add_assoc]; exact hlen, hmem⟩

/-- R55: a payload of `n` bytes stored from index 0 on is `out[0 .. n)`, and nothing outside it changes. -/
theorem outWrites_fills {m m' : Memory} {n : Nat} (hm : m' = outWrites m out 0 bs) (hn : bs.length = n) :
    (∀ j, j < n → m'.read (outAddr out j) = bs[j]?) ∧ ∀ a, ¬InRegion out n a → m'.read a = m.read a := by
  subst hm hn
  refine ⟨fun j hj => ?_, fun a ha => read_outWrites_outside m ?_⟩
  · simpa only [Nat.zero_add] using read_outWrites_payload m out 0 hj
  · simp only [InRegion, outAddr] at ha ⊢
    omega

/-- Settles O50: `run_reassembles` from WaitingForSize, where nothing is written. -/
theorem reassemblyLaw : Obligations.ReassemblyLaw := by
  intro k s t ph x n h hc hx hin hrun hidle hr
  obtain ⟨hn, hlen, hm⟩ := run_reassembles k h hc hin hrun hidle hr
  rw [(h.transfer _ x hc).unstarted hx] at hlen hm
  rw [Nat.zero_add] at hlen
  exact ⟨hn, hlen, outWrites_fills hm hlen⟩

end Sys2Proof.Machine
end

section
/-! PROOFS. A well-formed stream is received whole (R175, S6). The bytes of one physical read stand in the buffer as the groups of
the stream (`GroupsAt`); the run over them has an opening of two steps, one step per DATA group, and a closing of three. -/

namespace Sys2Proof.Machine

variable {s t u : State} {x : Transfer} {i : Instr} {is js : List Instr} {bs : List Byte} {m : Memory} {p : Nat}

/-! ## Groups in the buffer (R52, R80, R143) -/

/-- The groups of `is` stand in a memory from cell `p` on, 4 cells each. -/
def GroupsAt (m : Memory) : Nat → List Instr → Prop
  | _, [] => True
  | p, i :: is => (∃ g, readGroup m p = some g ∧ decodeGroup g = i) ∧ GroupsAt m (p + 4) is

theorem groupsAt_append : GroupsAt m p (is ++ js) ↔ GroupsAt m p is ∧ GroupsAt m (p + 4 * is.length) js := by
  induction is generalizing p with
  | nil => simp [GroupsAt]
  | cons i is ih =>
    have hpos : p + 4 + 4 * is.length = p + 4 * (i :: is).length := by simp only [List.length_cons]; omega
    simp only [List.cons_append, GroupsAt, ih, hpos, and_assoc]

/-- R80, R90: what comes in and is accepted is one group. -/
theorem decode_fromDevice (h : decode .fromDevice bs = .ok i) :
    ∃ g : Group, bs = [g.t, g.b1, g.b2, g.b3] ∧ decodeGroup g = i := by
  unfold decode at h
  split at h
  · next t b1 b2 b3 _ => exact ⟨⟨t, b1, b2, b3⟩, rfl, Except.ok.inj h⟩
  · cases h
  all_goals contradiction

/-- R82 to R85: the encoding of a well-formed group is a group that decodes to it. -/
theorem encode_group (hi : isGroup i) (hw : i.wf = true) :
    ∃ g : Group, encode i = [g.t, g.b1, g.b2, g.b3] ∧ decodeGroup g = i :=
  decode_fromDevice (decodeAfterEncode i .fromDevice hw hi)

/-- A memory that holds the bytes of well-formed groups from cell `p` on holds the groups there. -/
theorem groupsAt_of_bytes (hgroups : ∀ i ∈ is, isGroup i ∧ i.wf = true)
    (h : ∀ k, k < (is.flatMap encode).length → m.read (p + k) = (is.flatMap encode)[k]?) : GroupsAt m p is := by
  induction is generalizing p with
  | nil => trivial
  | cons i is ih =>
    obtain ⟨hi, hw⟩ := hgroups i (.head _)
    obtain ⟨g, hg, hdec⟩ := encode_group hi hw
    simp only [List.flatMap_cons, hg, List.cons_append, List.nil_append, List.length_cons] at h
    refine ⟨⟨g, readGroup_eq_some.2 ⟨?_, ?_, ?_, ?_⟩, hdec⟩, ih (fun j hj => hgroups j (.tail _ hj)) fun k hk => ?_⟩
    · exact h 0 (by omega)
    · exact h 1 (by omega)
    · exact h 2 (by omega)
    · exact h 3 (by omega)
    · rw [Nat.add_assoc, Nat.add_comm 4 k]
      exact h (k + 4) (by omega)

theorem length_flatMap_encode (hgroups : ∀ i ∈ is, isGroup i ∧ i.wf = true) :
    (is.flatMap encode).length = 4 * is.length := by
  induction is with
  | nil => rfl
  | cons i is ih =>
    obtain ⟨hi, hw⟩ := hgroups i (.head _)
    obtain ⟨g, hg, -⟩ := encode_group hi hw
    rw [List.flatMap_cons, List.length_append, ih fun j hj => hgroups j (.tail _ hj), hg, List.length_cons]
    simp only [List.length_cons, List.length_nil]
    omega

/-- R135: after a read of the bytes of well-formed groups, the buffer holds them from cell 0 on. -/
theorem fillBuffer_groupsAt (hgroups : ∀ i ∈ is, isGroup i ∧ i.wf = true) (s : State) (x : Transfer) :
    GroupsAt (fillBuffer s x (is.flatMap encode)).raw 0 is :=
  groupsAt_of_bytes hgroups fun k hk => by
    rw [Nat.zero_add, fillBuffer, read_writeBlock, if_pos (by omega), Nat.sub_zero]

/-- R143: a step of Scan runs the group that stands at the cursor. -/
theorem step_groupAt (hf : s.fault = none) (hc : s.ctl = .busy .scan x) (hp : x.p + 4 ≤ s.valid)
    (hat : GroupsAt s.raw x.p (i :: is)) : step s = exec i s := by
  obtain ⟨⟨g, hg, rfl⟩, -⟩ := hat
  simp only [step, fetch_scan hf hc, fetchScan_of_group hp hg]

/-! ## DATA groups (R83, R165) -/

theorem group_of_chunkOf (h : (chunkOf i).isSome) : isGroup i ∧ i.wf = true := by
  cases i with
  | data1 _ _ | data2 _ _ _ | data3 _ _ _ => exact ⟨rfl, rfl⟩
  | _ => cases h

theorem chunkOf_ne_nil (h : chunkOf i = some bs) : bs ≠ [] := by
  cases i with
  | data1 _ _ | data2 _ _ _ | data3 _ _ _ => cases h; exact List.cons_ne_nil _ _
  | _ => cases h

/-- The payloads of the DATA groups among `is`, in order. -/
def payloads (is : List Instr) : List Byte := is.flatMap fun i => (chunkOf i).getD []

theorem payloads_cons (hb : chunkOf i = some bs) (is : List Instr) : payloads (i :: is) = bs ++ payloads is := by
  simp only [payloads, List.flatMap_cons, hb, Option.getD_some]

theorem payloads_cons_pos (h : (chunkOf i).isSome) (is : List Instr) : 0 < (payloads (i :: is)).length := by
  obtain ⟨bs, hb⟩ := Option.isSome_iff_exists.1 h
  rw [payloads_cons hb, List.length_append]
  exact Nat.add_pos_left (List.length_pos_of_ne_nil (chunkOf_ne_nil hb)) _

/-- R165: a DATA group at the cursor, in Receiving, whose payload fits, is accepted. -/
theorem step_chunkAt (hf : s.fault = none) (hc : s.ctl = .busy .scan x) (hp : x.p + 4 ≤ s.valid)
    (hat : GroupsAt s.raw x.p (i :: is)) (hb : chunkOf i = some bs) (hx : x.tstate = .receiving)
    (hfit : x.written + bs.length ≤ x.req.toNat) : step s = .next (acceptChunk bs s x) := by
  obtain ⟨tag, hexec⟩ := exec_chunk hf hc hb
  rw [step_groupAt hf hc hp hat, hexec, dataStep_of_fits hx hfit]

/-- R165, R144: the transfer is full, with `bs` stored since registers `x`, and its ack is due with the cursor `n` groups
further. -/
def State.filled (s : State) (x : Transfer) (bs : List Byte) (n : Nat) : State :=
  (s.storeChunk x bs).ackThenNext { x with tstate := .waitingForEnd, written := x.req.toNat, p := x.p + 4 * n }

theorem acceptChunk_completes (h : x.written + bs.length = x.req.toNat) (s : State) :
    acceptChunk bs s x = s.filled x bs 0 := by
  simp [acceptChunk, State.filled, h]

theorem acceptChunk_goesOn (h : x.written + bs.length < x.req.toNat) (s : State) :
    acceptChunk bs s x = (s.storeChunk x bs).nextGroup { x with written := x.written + bs.length } := by
  simp [acceptChunk, h.ne]

/-- Filling up after a chunk is filling up with the chunk before it. -/
theorem filled_after_chunk (s : State) (x : Transfer) (bs cs : List Byte) (n : Nat) :
    ((s.storeChunk x bs).nextGroup { x with written := x.written + bs.length }).filled
      { x with written := x.written + bs.length, p := x.p + 4 } cs n = s.filled x (bs ++ cs) (n + 1) := by
  have hp : x.p + 4 + 4 * n = x.p + 4 * (n + 1) := by omega
  simp only [State.filled, State.storeChunk, State.nextGroup, State.ackThenNext, State.goTo, outWrites_append, hp]

theorem core_run_add {a : Nat} (h : Sys2Proof.core.run a s = .next u) (b : Nat) :
    Sys2Proof.core.run (a + b) s = Sys2Proof.core.run b u := by
  induction a generalizing s with
  | zero => cases h; rw [Nat.zero_add]
  | succ a ih =>
    cases hs : step s with
    | next v =>
      rw [core_run_succ hs] at h
      rw [Nat.add_right_comm, core_run_succ hs, ih h]
    | fault f => simp [Host.Core.run, Sys2Proof.core, hs] at h
    | refused r => simp [Host.Core.run, Sys2Proof.core, hs] at h

/-- R165: DATA groups whose payloads fill the transfer up exactly are accepted one a step, and the last asks for the ack. -/
theorem run_chunks {d : Instr} {ds : List Instr} (hf : s.fault = none) (hc : s.ctl = .busy .scan x)
    (hx : x.tstate = .receiving) (hds : ∀ i ∈ d :: ds, (chunkOf i).isSome)
    (hlen : x.written + (payloads (d :: ds)).length = x.req.toNat) (hat : GroupsAt s.raw x.p (d :: ds))
    (hp : x.p + 4 * ds.length + 4 ≤ s.valid) :
    Sys2Proof.core.run (ds.length + 1) s = .next (s.filled x (payloads (d :: ds)) ds.length) := by
  induction ds generalizing d s x with
  | nil =>
    obtain ⟨bs, hb⟩ := Option.isSome_iff_exists.1 (hds d (.head _))
    have hpay : payloads [d] = bs := (payloads_cons hb []).trans (List.append_nil bs)
    rw [hpay] at hlen ⊢
    rw [core_run_succ (step_chunkAt hf hc hp hat hb hx hlen.le), acceptChunk_completes hlen]
    rfl
  | cons d' ds ih =>
    obtain ⟨bs, hb⟩ := Option.isSome_iff_exists.1 (hds d (.head _))
    have hds' : ∀ i ∈ d' :: ds, (chunkOf i).isSome := fun i hi => hds i (.tail _ hi)
    have hpos := payloads_cons_pos (hds' d' (.head _)) ds
    rw [payloads_cons hb, List.length_append] at hlen
    simp only [List.length_cons] at hp
    have hmore : x.written + bs.length < x.req.toNat := by omega
    rw [payloads_cons hb, core_run_succ (step_chunkAt hf hc (by omega) hat hb hx hmore.le), acceptChunk_goesOn hmore,
      List.length_cons, ← filled_after_chunk]
    exact ih hf rfl hx hds' (by rw [Nat.add_assoc]; exact hlen) hat.2
      (by simp only [nextGroup_valid, storeChunk_valid]; omega)

/-! ## The opening and the closing of the run (R135, R144 to R146, R162) -/

/-- R162: the transfer registers after a matching announcement at the start of the buffer. -/
def Transfer.opened (x : Transfer) : Transfer := { x with tstate := .receiving, written := 0, p := 4 }

/-- R135, R162: a read has filled the buffer with `bs`, and the announcement at its start has entered Receiving. -/
def State.opened (s : State) (x : Transfer) (bs : List Byte) : State :=
  (fillBuffer s.physicalRead x bs).goTo .scan x.opened

/-- R144 to R146: the completion ack, the END group after the one at the cursor, and the final ack. -/
def State.closed (s : State) (x : Transfer) : State :=
  (s.ackWrite.finish { x with p := x.p + 4 }).ackWrite.returnWith (.ok x.req)

theorem run_opening {b1 : Byte} {len : BitVec 16} (hgroups : ∀ i ∈ .sizeAnnounce b1 len :: is, isGroup i ∧ i.wf = true)
    (hf : s.fault = none) (hc : s.ctl = .busy .refill x) (hx : x.tstate = .waitingForSize)
    (hlen : len.toNat = x.req.toNat) (hb : bs = (.sizeAnnounce b1 len :: is).flatMap encode)
    (ha : nextReadAnswer s = .ok bs) (hcap : bs.length ≤ s.cfg.cap) :
    Sys2Proof.core.run 2 s = .next (s.opened x bs) := by
  have hat : GroupsAt (fillBuffer s.physicalRead x bs).raw 0 (.sizeAnnounce b1 len :: is) :=
    hb ▸ fillBuffer_groupsAt hgroups s.physicalRead x
  have hfirst : 0 + 4 ≤ bs.length := by
    rw [hb, length_flatMap_encode hgroups, List.length_cons]
    omega
  have hstep := (step_groupAt (s := fillBuffer s.physicalRead x bs) (x := { x with p := 0 }) hf rfl hfirst hat).trans
    (matchingSizeStartsReceiving _ _ b1 len hf rfl hx hlen)
  rw [core_run_succ (step_refill_fits hf hc ha hcap), core_run_succ hstep]
  rfl

theorem run_closing {pad : BitVec 24} {writes : List WriteAnswer} (hf : s.fault = none)
    (hc : s.ctl = .busy .completeAck x) (hx : x.tstate = .waitingForEnd) (hat : GroupsAt s.raw (x.p + 4) [.endMark pad])
    (hp : x.p + 8 ≤ s.valid) (hw : s.writeAnswers = .ok :: .ok :: writes) :
    Sys2Proof.core.run 3 s = .next (s.closed x) := by
  have hcomplete : step s = .next (s.ackWrite.goTo .scan { x with p := x.p + 4 }) := by
    simp only [step_completeAck hf hc, completeAckStep, nextWriteAnswer, hw]
  have hend : step (s.ackWrite.goTo .scan { x with p := x.p + 4 }) =
      .next (s.ackWrite.finish { x with p := x.p + 4 }) :=
    (step_groupAt (s := s.ackWrite.goTo .scan { x with p := x.p + 4 }) hf rfl hp hat).trans
      (endRecordsThePosition _ _ pad hf rfl hx)
  have hfinal : step (s.ackWrite.finish { x with p := x.p + 4 }) = .next (s.closed x) := by
    rw [step_finalAck (s := s.ackWrite.finish { x with p := x.p + 4 }) hf rfl]
    simp only [finalAckStep, nextWriteAnswer, finish_writeAnswers, ackWrite_writeAnswers, hw, List.tail_cons,
      State.closed]
  rw [core_run_succ hcomplete, core_run_succ hend, core_run_succ hfinal]
  rfl

/-! ## The whole stream -/

/-- R175, S6: the groups of a well-formed stream, the DATA groups `ds` between an announcement and END. -/
def stream (b1 : Byte) (len : BitVec 16) (ds : List Instr) (pad : BitVec 24) : List Instr :=
  .sizeAnnounce b1 len :: (ds ++ [.endMark pad])

section Stream

variable {b1 : Byte} {len : BitVec 16} {pad : BitVec 24} {ds : List Instr}

theorem stream_groups (hds : ∀ i ∈ ds, (chunkOf i).isSome) : ∀ i ∈ stream b1 len ds pad, isGroup i ∧ i.wf = true := by
  intro i hi
  simp only [stream, List.mem_cons, List.mem_append, List.not_mem_nil, or_false] at hi
  obtain rfl | hi | rfl := hi
  · exact ⟨rfl, rfl⟩
  · exact group_of_chunkOf (hds i hi)
  · exact ⟨rfl, rfl⟩

theorem stream_bytes : (stream b1 len ds pad).flatMap encode =
    encode (.sizeAnnounce b1 len) ++ ds.flatMap encode ++ encode (.endMark pad) := by
  simp only [stream, List.flatMap_cons, List.flatMap_append, List.flatMap_nil, List.append_nil, List.append_assoc]

theorem stream_length (hds : ∀ i ∈ ds, (chunkOf i).isSome) :
    ((stream b1 len ds pad).flatMap encode).length = 4 * ds.length + 8 := by
  rw [length_flatMap_encode (stream_groups hds)]
  simp only [stream, List.length_cons, List.length_append, List.length_nil]
  omega

/-- S6: where the run over a stream ends, with `n` groups between the announcement and the last DATA group. -/
def State.received (s : State) (x : Transfer) (bs payload : List Byte) (n : Nat) : State :=
  ((s.opened x bs).filled x.opened payload n).closed
    { x.opened with tstate := .waitingForEnd, written := x.req.toNat, p := 4 + 4 * n }

/-- S6: the opening, one step per DATA group, the closing. -/
theorem run_stream {d : Instr} {writes : List WriteAnswer} (hf : s.fault = none) (hc : s.ctl = .busy .refill x)
    (hx : x.tstate = .waitingForSize) (hlen : len.toNat = x.req.toNat) (hds : ∀ i ∈ d :: ds, (chunkOf i).isSome)
    (hsum : (payloads (d :: ds)).length = x.req.toNat) (hb : bs = (stream b1 len (d :: ds) pad).flatMap encode)
    (ha : nextReadAnswer s = .ok bs) (hcap : bs.length ≤ s.cfg.cap) (hw : s.writeAnswers = .ok :: .ok :: writes) :
    Sys2Proof.core.run (ds.length + 1 + 5) s = .next (s.received x bs (payloads (d :: ds)) ds.length) := by
  have hgroups := stream_groups (b1 := b1) (len := len) (pad := pad) hds
  have hbytes : bs.length = 4 * (ds.length + 1) + 8 := hb ▸ stream_length hds
  obtain ⟨-, hat⟩ := hb ▸ fillBuffer_groupsAt hgroups s.physicalRead x
  obtain ⟨hatData, hatEnd⟩ := groupsAt_append.1 hat
  have hopen := run_opening hgroups hf hc hx hlen hb ha hcap
  have hdata := run_chunks (s := s.opened x bs) (x := x.opened) hf rfl rfl hds ((Nat.zero_add _).trans hsum) hatData
    (show 4 + 4 * ds.length + 4 ≤ bs.length by omega)
  have hclose := run_closing (s := (s.opened x bs).filled x.opened (payloads (d :: ds)) ds.length) hf rfl rfl hatEnd
    (show 4 + 4 * ds.length + 8 ≤ bs.length by omega) hw
  have hsteps : ds.length + 1 + 5 = 2 + (ds.length + 1 + 3) := by omega
  rw [hsteps, core_run_add hopen, core_run_add hdata, hclose]
  rfl

end Stream

/-- Settles O51: `run_stream`, with a last DATA group because `req` is not 0, and its payloads stored from index 0 on. -/
theorem wellFormedStreamIsReceived : Obligations.WellFormedStreamIsReceived := by
  intro s x b1 len pad ds reads writes hf hc hx hlen hreq hds hsum hcap hr hw
  obtain _ | ⟨d, ds⟩ := ds
  · exact absurd (BitVec.eq_of_toNat_eq hsum.symm) hreq
  rw [← stream_bytes] at hr
  have hbytes := stream_length (b1 := b1) (len := len) (pad := pad) hds
  have ha : nextReadAnswer s = .ok ((stream b1 len (d :: ds) pad).flatMap encode) := by simp only [nextReadAnswer, hr]
  have hrun := run_stream hf hc hx hlen hds hsum rfl ha (hbytes.trans_le hcap) hw
  have hend : 4 + 4 * ds.length + 4 + 4 = 4 * (ds.length + 1) + 8 := by omega
  exact ⟨_, hrun, rfl, hf, rfl, hend, hbytes, congrArg List.tail hr, congrArg (List.tail ∘ List.tail) hw,
    outWrites_fills rfl hsum⟩

end Sys2Proof.Machine
end

section
/-! PROOFS. The host's sequences (spec/45_host_sequences.md): a transport call of the host's own touches the transport's side of
the state only (`SameButWire`), so its step agrees with taking the request off the host's queue in every register. -/

namespace Sys2Proof.Machine

variable {s : State}

/-! ## The host's own bulk read (R200, R65, R272) -/

theorem hostReads_sameButWire (s : State) : SameButWire s s.hostReads := by
  simp [SameButWire, SameRegisters]

/-- R34, R200: the read is made from the state in which the host has taken the last result and the move is off its queue. -/
theorem step_bulkRead {rest : List HostAction} (hf : s.fault = none) (hc : s.ctl = .idle)
    (hq : s.hostQueue = .bulkRead :: rest) : step s = .next (State.hostReads { s.handOver with hostQueue := rest }) := by
  simp only [step, fetch_idle hf hc, fetchHost, hq, hostMove]

/-- Settles O9: the step is `State.hostReads` after the hand-over, which touches the transport's side only. -/
theorem hostReadChangesNoRegister : Obligations.HostReadChangesNoRegister := by
  intro s rest hf hc hq
  obtain ⟨hregisters, hmem, hqueue⟩ := hostReads_sameButWire { s.handOver with hostQueue := rest }
  exact ⟨_, step_bulkRead hf hc hq, hregisters, hmem.symm, hqueue.symm, rfl, rfl, rfl⟩

end Sys2Proof.Machine
end

section
/-! PROOFS. Reset and the hazards (spec/70_reset_and_hazards.md): power-on, the waiting of an Idle block, and the acks that a RECEIVE
costs (R269). The acks it owes before it can succeed (`acksOwed`) fall by one with each ack written and rise by one with each read
timeout, from two at its start to none at its return. -/

namespace Sys2Proof.Machine

variable {s t : State} {ph : OpPhase} {x y : Transfer} {owed : Nat}

/-! ## Power-on and waiting (R39, R260) -/

/-- R260: with no move on the host's queue, the fetch of an Idle block is the hand-over alone. -/
theorem step_waits (hf : s.fault = none) (hc : s.ctl = .idle) (hq : s.hostQueue = []) : step s = .next s.handOver := by
  simp only [step, fetch_idle hf hc, fetchHost, hq]

/-- Settles O34: the hand-over empties `result` and writes nothing else. -/
theorem idleWaits : Obligations.IdleWaits :=
  fun _ hf hc hq => step_waits hf hc hq

/-- Settles O35: power-on writes these values, and a buffer that lists no cell holds none. -/
theorem resetIsPowerOn : Obligations.ResetIsPowerOn :=
  ⟨rfl, rfl, rfl, rfl, rfl, fun _ => rfl, rfl⟩

/-! ## Acks and read timeouts on the record of calls (R137, R141) -/

theorem acksWritten_congr (h : t.calls = s.calls) : acksWritten t = acksWritten s := by
  simp only [acksWritten, h]

theorem readTimeouts_congr (h : t.calls = s.calls) : readTimeouts t = readTimeouts s := by
  simp only [readTimeouts, h]

@[simp] theorem acksWritten_ackWrite (s : State) : acksWritten s.ackWrite = acksWritten s + 1 := by
  simp [acksWritten]

@[simp] theorem readTimeouts_ackWrite (s : State) : readTimeouts s.ackWrite = readTimeouts s := by
  simp [readTimeouts]

@[simp] theorem acksWritten_physicalRead (s : State) : acksWritten s.physicalRead = acksWritten s := by
  simp [acksWritten]

theorem readTimeouts_physicalRead_ok {bs : List Byte} (ha : nextReadAnswer s = .ok bs) :
    readTimeouts s.physicalRead = readTimeouts s := by
  simp [readTimeouts, ha]

theorem readTimeouts_physicalRead_timeout (ha : nextReadAnswer s = .timeout) :
    readTimeouts s.physicalRead = readTimeouts s + 1 := by
  simp [readTimeouts, ha]

/-! ## The acks that are still owed (R139, R144, R146, R269) -/

/-- R144, R146: the acks that a transfer state leads to: the completion ack and the final one, or the final one alone. -/
def acksAhead : TState → Nat
  | .waitingForSize => 2
  | .receiving => 2
  | .waitingForEnd => 1

/-- R139, R144: the ack that a phase writes on top of those ahead. The completion ack is written in WaitingForEnd, which counts
the final ack only. -/
def ackDueNow : OpPhase → Nat
  | .refill => 0
  | .timeoutAck => 1
  | .scan => 0
  | .completeAck => 1
  | .finalAck => 0

/-- R269: the acks that a RECEIVE has yet to write before it can succeed, if no further read times out. -/
def acksOwed (ph : OpPhase) (x : Transfer) : Nat := acksAhead x.tstate + ackDueNow ph

/-- A step from a point of a RECEIVE that owes `owed` acks ends it, or goes on and keeps the account: the acks written and the acks
still owed grow together by the reads that timed out. -/
inductive Account (s : State) (owed : Nat) (t : State) : Prop where
  | ended (hc : t.ctl = .idle)
  | goesOn (ph : OpPhase) (y : Transfer) (hc : t.ctl = .busy ph y)
      (hbal : acksWritten t + acksOwed ph y + readTimeouts s = acksWritten s + owed + readTimeouts t)

theorem Account.of_no_call (hc : t.ctl = .busy ph y) (hcalls : t.calls = s.calls) (ho : acksOwed ph y = owed) :
    Account s owed t :=
  .goesOn ph y hc (by rw [acksWritten_congr hcalls, readTimeouts_congr hcalls, ho])

theorem Account.of_ackWrite (hc : t.ctl = .busy ph y) (hcalls : t.calls = s.ackWrite.calls)
    (ho : acksOwed ph y + 1 = owed) : Account s owed t := by
  refine .goesOn ph y hc ?_
  rw [acksWritten_congr hcalls, readTimeouts_congr hcalls, acksWritten_ackWrite, readTimeouts_ackWrite]
  omega

theorem Account.of_read {bs : List Byte} (ha : nextReadAnswer s = .ok bs) (hc : t.ctl = .busy ph y)
    (hcalls : t.calls = s.physicalRead.calls) (ho : acksOwed ph y = owed) : Account s owed t := by
  refine .goesOn ph y hc ?_
  rw [acksWritten_congr hcalls, readTimeouts_congr hcalls, acksWritten_physicalRead, readTimeouts_physicalRead_ok ha, ho]

theorem Account.of_timeout (ha : nextReadAnswer s = .timeout) (hc : t.ctl = .busy ph y)
    (hcalls : t.calls = s.physicalRead.calls) (ho : acksOwed ph y = owed + 1) : Account s owed t := by
  refine .goesOn ph y hc ?_
  rw [acksWritten_congr hcalls, readTimeouts_congr hcalls, acksWritten_physicalRead,
    readTimeouts_physicalRead_timeout ha]
  omega

/-! ## What each step of a RECEIVE does to the account -/

/-- R137: only the timeout that does not abort makes one more ack due. -/
theorem refillStep_account (hc : s.ctl = .busy .refill x) : Account s (acksOwed .refill x) (refillStep s x) := by
  obtain ⟨bs, ha, -, e⟩ | ⟨bs, ha, -, e⟩ | ⟨-, -, e⟩ | ⟨ha, -, e⟩ | ⟨c, -, e⟩ := refillStep_cases s x <;> rw [e]
  · exact .of_read ha hc rfl rfl
  · exact .of_read ha rfl rfl rfl
  · exact .ended rfl
  · exact .of_timeout ha rfl rfl rfl
  · exact .ended rfl

theorem timeoutAckStep_account (s : State) (x : Transfer) :
    Account s (acksOwed .timeoutAck x) (timeoutAckStep s x) := by
  obtain ⟨-, e⟩ | ⟨c, -, e⟩ := timeoutAckStep_cases s x <;> rw [e]
  · exact .of_ackWrite rfl rfl rfl
  · exact .ended rfl

theorem completeAckStep_account (s : State) (x : Transfer) :
    Account s (acksOwed .completeAck x) (completeAckStep s x) := by
  obtain ⟨-, e⟩ | ⟨c, -, e⟩ := completeAckStep_cases s x <;> rw [e]
  · exact .of_ackWrite rfl rfl rfl
  · exact .ended rfl

/-- R162, R165, R171: an announcement leaves both acks ahead, the completing chunk makes the first of them due, and END finds the
second ahead. -/
theorem GroupRun.account (hr : GroupRun s x t) : Account s (acksOwed .scan x) t := by
  cases hr with
  | size len =>
    obtain ⟨hx, -, e⟩ | ⟨-, k, v, e⟩ := sizeStep_cases len s x <;> rw [e]
    · exact .of_no_call rfl rfl (by simp only [acksOwed, hx, acksAhead])
    · exact .of_no_call rfl rfl rfl
  | data tag bs _ _ =>
    obtain ⟨-, -, e⟩ | ⟨hx, -, e⟩ | ⟨-, -, e⟩ | ⟨-, e⟩ := dataStep_cases tag bs s x <;> rw [e]
    · exact .ended rfl
    · exact .of_no_call rfl rfl (by simp only [acksOwed, hx, acksAhead, ackDueNow])
    · exact .of_no_call rfl rfl rfl
    · exact .of_no_call rfl rfl rfl
  | endMark => obtain ⟨-, e⟩ | ⟨-, e⟩ := endStep_cases s x <;> rw [e] <;> exact .of_no_call rfl rfl rfl
  | unknown t => exact .of_no_call rfl rfl rfl

theorem StepTo.account (hs : StepTo s t) (hc : s.ctl = .busy ph x) : Account s (acksOwed ph x) t := by
  cases hs with
  | refill y hy => cases hc.symm.trans hy; exact refillStep_account hc
  | timeoutAck y hy => cases hc.symm.trans hy; exact timeoutAckStep_account s x
  | completeAck y hy => cases hc.symm.trans hy; exact completeAckStep_account s x
  | finalAck y _ => exact .ended (finalAckStep_endsReceive s y).1
  | endPass y hy _ => cases hc.symm.trans hy; exact .of_no_call rfl rfl rfl
  | partialGroup y _ _ _ => exact .of_no_call hc rfl rfl
  | group y _ hy _ _ _ hr => cases hc.symm.trans hy; exact hr.account
  | _ => exact nomatch hc.symm.trans ‹s.ctl = .idle›

/-- R146: the step that returns a success writes the one ack that is still owed, because the final ack is due in WaitingForEnd
only. -/
theorem StepTo.returnsOk_account {n : Size} (h : s.Inv) (hs : StepTo s t) (hc : s.ctl = .busy ph x)
    (hidle : t.ctl = .idle) (hr : t.result = some (.ok n)) :
    acksWritten t = acksWritten s + acksOwed ph x ∧ readTimeouts t = readTimeouts s := by
  obtain ⟨rfl, rfl⟩ | herr := hs.finalAck_or_errorIfIdle hc
  · have hx : x.tstate = .waitingForEnd := h.phase _ x hc
    have hcalls : (finalAckStep s x).calls = s.ackWrite.calls := (finalAckStep_frame s x).2
    rw [acksWritten_congr hcalls, readTimeouts_congr hcalls, acksOwed, hx]
    exact ⟨acksWritten_ackWrite s, readTimeouts_ackWrite s⟩
  · obtain ⟨_, e⟩ := herr hidle
    cases hr.symm.trans e

/-! ## The cost of a success (R269) -/

/-- From any point of a RECEIVE on, a success costs the acks that are owed there, plus one per read timeout. -/
theorem run_writes_acksOwed {n : Size} (k : Nat) (h : s.Inv) (hc : s.ctl = .busy ph x) (hin : insideReceive k s)
    (hrun : Sys2Proof.core.run k s = .next t) (hidle : t.ctl = .idle) (hr : t.result = some (.ok n)) :
    acksWritten t + readTimeouts s = acksWritten s + acksOwed ph x + readTimeouts t := by
  induction k generalizing s ph x with
  | zero =>
    cases hrun
    cases hc.symm.trans hidle
  | succ k ih =>
    obtain ⟨u, hs, hin'⟩ := insideReceive_succ hin
    rw [core_run_succ hs] at hrun
    obtain ⟨-, hst⟩ := step_cases hs
    cases hst.account hc with
    | ended hu =>
      obtain rfl := insideReceive_idle hin' hu
      cases hrun
      obtain ⟨hacks, htimeouts⟩ := hst.returnsOk_account h hc hu hr
      rw [hacks, htimeouts]
    | goesOn ph' y hu hbal =>
      have hrest := ih (hst.inv h) hu hin' hrun
      omega

/-- Settles O52: `run_writes_acksOwed` from Refill or Scan in WaitingForSize, where two acks are owed. -/
theorem successCostsTwoAcks : Obligations.SuccessCostsTwoAcks := by
  intro k s t ph x n h hc hph hx hin hrun hidle hr
  have howed : acksOwed ph x = 2 := by
    obtain rfl | rfl := hph <;> simp only [acksOwed, hx, acksAhead, ackDueNow]
  exact howed ▸ run_writes_acksOwed k h hc hin hrun hidle hr

end Sys2Proof.Machine
end
